-- ==== Sys2Proof/Word.lean ====
section
/-! DEFINITION. The word types of the core (00_scope.md R5, R7): every value the spec adds, shifts, masks or shows
to software as a word is a bit vector of the spec's width, and all of them are unsigned. -/

namespace Sys2Proof

/-- An 8-bit value: a general register, a timer, a memory cell (R5 REG_WIDTH, TIMER_WIDTH). -/
abbrev Byte := BitVec 8

/-- A 16-bit value: `I`, `pc`, a stack entry, an instruction word (R5 I_WIDTH, PC_WIDTH, STACK_ENTRY_WIDTH). -/
abbrev Word := BitVec 16

/-- A 4-bit field of an instruction word, or a key number (30_encoding.md R92, 44_keypad.md R211). -/
abbrev Nibble := BitVec 4

/-- A 12-bit address immediate `nnn` (30_encoding.md R92). -/
abbrev Addr12 := BitVec 12

end Sys2Proof
end

