-- ==== Sys2Proof/Syntax.lean ====
section
/-! DEFINITION. The instructions: one constructor per row of the opcode map (30_encoding.md R95), in the rows' order,
with the operand fields the decode function of R94 gives it. -/

namespace Sys2Proof

/-- The 35 operations (30_encoding.md R95). `SHR` and `SHL` have no `y`: R94 decodes `8xy6` to `SHR(x)` and `8xyE` to
`SHL(x)` for every `y` (R105). -/
inductive Instr where
  /-- `0nnn`: SYS nnn (R140). -/
  | sys (nnn : Addr12)
  /-- `00E0`: CLS (R192). -/
  | cls
  /-- `00EE`: RET (R141). -/
  | ret
  /-- `1nnn`: JP nnn (R142). -/
  | jp (nnn : Addr12)
  /-- `2nnn`: CALL nnn (R143). -/
  | call (nnn : Addr12)
  /-- `3xkk`: SE Vx,kk (R144). -/
  | seImm (x : Nibble) (kk : Byte)
  /-- `4xkk`: SNE Vx,kk (R145). -/
  | sneImm (x : Nibble) (kk : Byte)
  /-- `5xy0`: SE Vx,Vy (R146). -/
  | seReg (x y : Nibble)
  /-- `6xkk`: LD Vx,kk (R161). -/
  | ldImm (x : Nibble) (kk : Byte)
  /-- `7xkk`: ADD Vx,kk (R162). -/
  | addImm (x : Nibble) (kk : Byte)
  /-- `8xy0`: LD Vx,Vy (R163). -/
  | ldReg (x y : Nibble)
  /-- `8xy1`: OR Vx,Vy (R164). -/
  | orReg (x y : Nibble)
  /-- `8xy2`: AND Vx,Vy (R165). -/
  | andReg (x y : Nibble)
  /-- `8xy3`: XOR Vx,Vy (R166). -/
  | xorReg (x y : Nibble)
  /-- `8xy4`: ADD Vx,Vy (R167). -/
  | addReg (x y : Nibble)
  /-- `8xy5`: SUB Vx,Vy (R168). -/
  | sub (x y : Nibble)
  /-- `8xy6`, y ignored: SHR Vx (R169). -/
  | shr (x : Nibble)
  /-- `8xy7`: SUBN Vx,Vy (R170). -/
  | subn (x y : Nibble)
  /-- `8xyE`, y ignored: SHL Vx (R171). -/
  | shl (x : Nibble)
  /-- `9xy0`: SNE Vx,Vy (R147). -/
  | sneReg (x y : Nibble)
  /-- `Annn`: LD I,nnn (R234). -/
  | ldI (nnn : Addr12)
  /-- `Bnnn`: JP V0,nnn (R148). -/
  | jpV0 (nnn : Addr12)
  /-- `Cxkk`: RND Vx,kk (R172). -/
  | rnd (x : Nibble) (kk : Byte)
  /-- `Dxyn`: DRW Vx,Vy,n (R193). -/
  | drw (x y n : Nibble)
  /-- `Ex9E`: SKP Vx (R214). -/
  | skp (x : Nibble)
  /-- `ExA1`: SKNP Vx (R215). -/
  | sknp (x : Nibble)
  /-- `Fx07`: LD Vx,DT (R231). -/
  | ldVxDt (x : Nibble)
  /-- `Fx0A`: LD Vx,K (R216). -/
  | ldVxK (x : Nibble)
  /-- `Fx15`: LD DT,Vx (R232). -/
  | ldDtVx (x : Nibble)
  /-- `Fx18`: LD ST,Vx (R233). -/
  | ldStVx (x : Nibble)
  /-- `Fx1E`: ADD I,Vx (R235). -/
  | addI (x : Nibble)
  /-- `Fx29`: LD F,Vx (R236). -/
  | ldF (x : Nibble)
  /-- `Fx33`: LD B,Vx (R237). -/
  | ldB (x : Nibble)
  /-- `Fx55`: LD [I],Vx (R238). -/
  | ldMemVx (x : Nibble)
  /-- `Fx65`: LD Vx,[I] (R239). -/
  | ldVxMem (x : Nibble)
deriving DecidableEq, Repr

end Sys2Proof
end

