-- ==== Sys2Proof/Decode.lean ====
section
/-! DEFINITION. The decoder (30_encoding.md R90 to R94), total on any bytes and rejecting by name; after it the
encoder, written from the encoding column of the opcode map (R95), and the map itself as rows of mask and match.
The bit patterns are the spec's, which marks them as general knowledge (93 G1; log 7). -/

namespace Sys2Proof

/-- Why bytes are no instruction. -/
inductive DecodeError where
  /-- One of the 17488 words of 30_encoding.md R104. -/
  | illegalOpcode
  /-- Fewer than the two bytes of an instruction (R90). -/
  | truncated
deriving DecidableEq, Repr

/-! ### Byte order and fields -/

/-- The instruction word of two bytes, the byte at the lower address first: big-endian (20_memory.md R65). -/
def wordOfBytes (hi lo : Byte) : Word := hi ++ lo

/-- The byte at the lower address, `w[15:8]` (R65). -/
def hiByte (w : Word) : Byte := w.extractLsb' 8 8

/-- The byte at the higher address, `w[7:0]` (R65). -/
def loByte (w : Word) : Byte := w.extractLsb' 0 8

/-- `op = w[15:12]` (30_encoding.md R92). -/
def opField (w : Word) : Nibble := w.extractLsb' 12 4

/-- `x = w[11:8]` (R92). -/
def xField (w : Word) : Nibble := w.extractLsb' 8 4

/-- `y = w[7:4]` (R92). -/
def yField (w : Word) : Nibble := w.extractLsb' 4 4

/-- `n = w[3:0]` (R92). -/
def nField (w : Word) : Nibble := w.extractLsb' 0 4

/-- `kk = w[7:0]` (R92). -/
def kkField (w : Word) : Byte := w.extractLsb' 0 8

/-- `nnn = w[11:0]` (R92). -/
def nnnField (w : Word) : Addr12 := w.extractLsb' 0 12

/-! ### The decode function of R94 -/

/-- Family 0x0: `CLS`, `RET`, else `SYS` (R94). -/
def decodeFamily0 (w : Word) : Instr :=
  if w = 0x00E0#16 then .cls
  else if w = 0x00EE#16 then .ret
  else .sys (nnnField w)

/-- Family 0x8 by its low nibble; 0x8 to 0xD and 0xF are illegal (R94, R104). -/
def decodeFamily8 (x y n : Nibble) : Except DecodeError Instr :=
  match n with
  | 0x0#4 => .ok (.ldReg x y)
  | 0x1#4 => .ok (.orReg x y)
  | 0x2#4 => .ok (.andReg x y)
  | 0x3#4 => .ok (.xorReg x y)
  | 0x4#4 => .ok (.addReg x y)
  | 0x5#4 => .ok (.sub x y)
  | 0x6#4 => .ok (.shr x)
  | 0x7#4 => .ok (.subn x y)
  | 0xE#4 => .ok (.shl x)
  | _ => .error .illegalOpcode

/-- Family 0xE by its low byte (R94, R104). -/
def decodeFamilyE (x : Nibble) (kk : Byte) : Except DecodeError Instr :=
  match kk with
  | 0x9E#8 => .ok (.skp x)
  | 0xA1#8 => .ok (.sknp x)
  | _ => .error .illegalOpcode

/-- Family 0xF by its low byte (R94, R104). -/
def decodeFamilyF (x : Nibble) (kk : Byte) : Except DecodeError Instr :=
  match kk with
  | 0x07#8 => .ok (.ldVxDt x)
  | 0x0A#8 => .ok (.ldVxK x)
  | 0x15#8 => .ok (.ldDtVx x)
  | 0x18#8 => .ok (.ldStVx x)
  | 0x1E#8 => .ok (.addI x)
  | 0x29#8 => .ok (.ldF x)
  | 0x33#8 => .ok (.ldB x)
  | 0x55#8 => .ok (.ldMemVx x)
  | 0x65#8 => .ok (.ldVxMem x)
  | _ => .error .illegalOpcode

/-- `decode(w)` of 30_encoding.md R94: a total function of the word alone (40_step_cycle.md R122). Families 0x5 and
0x9 test their low nibble (D6). -/
def decodeWord (w : Word) : Except DecodeError Instr :=
  let x := xField w
  let y := yField w
  let n := nField w
  let kk := kkField w
  let nnn := nnnField w
  match opField w with
  | 0x0#4 => .ok (decodeFamily0 w)
  | 0x1#4 => .ok (.jp nnn)
  | 0x2#4 => .ok (.call nnn)
  | 0x3#4 => .ok (.seImm x kk)
  | 0x4#4 => .ok (.sneImm x kk)
  | 0x5#4 => if n = 0x0#4 then .ok (.seReg x y) else .error .illegalOpcode
  | 0x6#4 => .ok (.ldImm x kk)
  | 0x7#4 => .ok (.addImm x kk)
  | 0x8#4 => decodeFamily8 x y n
  | 0x9#4 => if n = 0x0#4 then .ok (.sneReg x y) else .error .illegalOpcode
  | 0xA#4 => .ok (.ldI nnn)
  | 0xB#4 => .ok (.jpV0 nnn)
  | 0xC#4 => .ok (.rnd x kk)
  | 0xD#4 => .ok (.drw x y n)
  | 0xE#4 => decodeFamilyE x kk
  | _ => decodeFamilyF x kk

/-- The decoder on bytes: the first instruction and the bytes after it (R90: always two bytes). -/
def decode : List Byte → Except DecodeError (Instr × List Byte)
  | hi :: lo :: rest =>
    match decodeWord (wordOfBytes hi lo) with
    | .ok i => .ok (i, rest)
    | .error e => .error e
  | _ => .error .truncated

/-- The instruction of a row of spec/opcode_table.json whose bits are `w` (bit 0 the least significant of the 16-bit
word): laid out big-endian in memory (R65) and given to `decode`. -/
def decodeTableWord (nbits w : Nat) : Option Instr :=
  let word := BitVec.ofNat 16 (w % 2 ^ nbits)
  match decode [hiByte word, loByte word] with
  | .ok (i, _) => some i
  | .error _ => none

/-! ### The encoder, from the encoding column of R95 -/

/-- Format `NNN` (30_encoding.md R91). -/
def nnnWord (op : Nibble) (nnn : Addr12) : Word := op ++ nnn

/-- Formats `XKK` and `X` (R91). -/
def xkkWord (op x : Nibble) (kk : Byte) : Word := (op ++ x) ++ kk

/-- Formats `XY` and `XYN` (R91). -/
def xynWord (op x y n : Nibble) : Word := ((op ++ x) ++ y) ++ n

/-- The word of an instruction (R95). `SHR` and `SHL` take their canonical `y = 0` (R105, D33; log 8). -/
def encode : Instr → Word
  | .sys nnn => nnnWord 0x0#4 nnn
  | .cls => 0x00E0#16
  | .ret => 0x00EE#16
  | .jp nnn => nnnWord 0x1#4 nnn
  | .call nnn => nnnWord 0x2#4 nnn
  | .seImm x kk => xkkWord 0x3#4 x kk
  | .sneImm x kk => xkkWord 0x4#4 x kk
  | .seReg x y => xynWord 0x5#4 x y 0x0#4
  | .ldImm x kk => xkkWord 0x6#4 x kk
  | .addImm x kk => xkkWord 0x7#4 x kk
  | .ldReg x y => xynWord 0x8#4 x y 0x0#4
  | .orReg x y => xynWord 0x8#4 x y 0x1#4
  | .andReg x y => xynWord 0x8#4 x y 0x2#4
  | .xorReg x y => xynWord 0x8#4 x y 0x3#4
  | .addReg x y => xynWord 0x8#4 x y 0x4#4
  | .sub x y => xynWord 0x8#4 x y 0x5#4
  | .shr x => xynWord 0x8#4 x 0x0#4 0x6#4
  | .subn x y => xynWord 0x8#4 x y 0x7#4
  | .shl x => xynWord 0x8#4 x 0x0#4 0xE#4
  | .sneReg x y => xynWord 0x9#4 x y 0x0#4
  | .ldI nnn => nnnWord 0xA#4 nnn
  | .jpV0 nnn => nnnWord 0xB#4 nnn
  | .rnd x kk => xkkWord 0xC#4 x kk
  | .drw x y n => xynWord 0xD#4 x y n
  | .skp x => xkkWord 0xE#4 x 0x9E#8
  | .sknp x => xkkWord 0xE#4 x 0xA1#8
  | .ldVxDt x => xkkWord 0xF#4 x 0x07#8
  | .ldVxK x => xkkWord 0xF#4 x 0x0A#8
  | .ldDtVx x => xkkWord 0xF#4 x 0x15#8
  | .ldStVx x => xkkWord 0xF#4 x 0x18#8
  | .addI x => xkkWord 0xF#4 x 0x1E#8
  | .ldF x => xkkWord 0xF#4 x 0x29#8
  | .ldB x => xkkWord 0xF#4 x 0x33#8
  | .ldMemVx x => xkkWord 0xF#4 x 0x55#8
  | .ldVxMem x => xkkWord 0xF#4 x 0x65#8

/-- The bytes of an instruction in memory, in ascending address order (R65). -/
def encodeBytes (i : Instr) : List Byte := [hiByte (encode i), loByte (encode i)]

/-- The canonical word of a legal word: the ignored `y` nibble of `8xy6` and `8xyE` is 0, every other word is its own
(R105, D33). -/
def canonicalWord (w : Word) : Word :=
  if opField w = 0x8#4 ∧ (nField w = 0x6#4 ∨ nField w = 0xE#4) then w &&& 0xFF0F#16 else w

/-! ### The opcode map as rows (R95) -/

/-- One row of the opcode map: `w` selects it when `w & mask == match` and `w` is not excluded (R95). -/
structure OpcodeRow where
  mnemonic : String
  mask : Word
  pattern : Word
  exclude : List Word := []
deriving DecidableEq, Repr

/-- A word selects a row (R95). -/
def OpcodeRow.selects (r : OpcodeRow) (w : Word) : Bool :=
  w &&& r.mask == r.pattern && !r.exclude.contains w

/-- Rows of families 0x0 to 0x7 (R95). -/
def opcodeRowsLow : List OpcodeRow := [
  { mnemonic := "CLS", mask := 0xFFFF#16, pattern := 0x00E0#16 },
  { mnemonic := "RET", mask := 0xFFFF#16, pattern := 0x00EE#16 },
  { mnemonic := "SYS_nnn", mask := 0xF000#16, pattern := 0x0000#16, exclude := [0x00E0#16, 0x00EE#16] },
  { mnemonic := "JP_nnn", mask := 0xF000#16, pattern := 0x1000#16 },
  { mnemonic := "CALL_nnn", mask := 0xF000#16, pattern := 0x2000#16 },
  { mnemonic := "SE_Vx_kk", mask := 0xF000#16, pattern := 0x3000#16 },
  { mnemonic := "SNE_Vx_kk", mask := 0xF000#16, pattern := 0x4000#16 },
  { mnemonic := "SE_Vx_Vy", mask := 0xF00F#16, pattern := 0x5000#16 },
  { mnemonic := "LD_Vx_kk", mask := 0xF000#16, pattern := 0x6000#16 },
  { mnemonic := "ADD_Vx_kk", mask := 0xF000#16, pattern := 0x7000#16 }]

/-- Rows of families 0x8 to 0xD (R95). -/
def opcodeRowsMid : List OpcodeRow := [
  { mnemonic := "LD_Vx_Vy", mask := 0xF00F#16, pattern := 0x8000#16 },
  { mnemonic := "OR_Vx_Vy", mask := 0xF00F#16, pattern := 0x8001#16 },
  { mnemonic := "AND_Vx_Vy", mask := 0xF00F#16, pattern := 0x8002#16 },
  { mnemonic := "XOR_Vx_Vy", mask := 0xF00F#16, pattern := 0x8003#16 },
  { mnemonic := "ADD_Vx_Vy", mask := 0xF00F#16, pattern := 0x8004#16 },
  { mnemonic := "SUB_Vx_Vy", mask := 0xF00F#16, pattern := 0x8005#16 },
  { mnemonic := "SHR_Vx", mask := 0xF00F#16, pattern := 0x8006#16 },
  { mnemonic := "SUBN_Vx_Vy", mask := 0xF00F#16, pattern := 0x8007#16 },
  { mnemonic := "SHL_Vx", mask := 0xF00F#16, pattern := 0x800E#16 },
  { mnemonic := "SNE_Vx_Vy", mask := 0xF00F#16, pattern := 0x9000#16 },
  { mnemonic := "LD_I_nnn", mask := 0xF000#16, pattern := 0xA000#16 },
  { mnemonic := "JP_V0_nnn", mask := 0xF000#16, pattern := 0xB000#16 },
  { mnemonic := "RND_Vx_kk", mask := 0xF000#16, pattern := 0xC000#16 },
  { mnemonic := "DRW_Vx_Vy_n", mask := 0xF000#16, pattern := 0xD000#16 }]

/-- Rows of families 0xE and 0xF (R95). -/
def opcodeRowsHigh : List OpcodeRow := [
  { mnemonic := "SKP_Vx", mask := 0xF0FF#16, pattern := 0xE09E#16 },
  { mnemonic := "SKNP_Vx", mask := 0xF0FF#16, pattern := 0xE0A1#16 },
  { mnemonic := "LD_Vx_DT", mask := 0xF0FF#16, pattern := 0xF007#16 },
  { mnemonic := "LD_Vx_K", mask := 0xF0FF#16, pattern := 0xF00A#16 },
  { mnemonic := "LD_DT_Vx", mask := 0xF0FF#16, pattern := 0xF015#16 },
  { mnemonic := "LD_ST_Vx", mask := 0xF0FF#16, pattern := 0xF018#16 },
  { mnemonic := "ADD_I_Vx", mask := 0xF0FF#16, pattern := 0xF01E#16 },
  { mnemonic := "LD_F_Vx", mask := 0xF0FF#16, pattern := 0xF029#16 },
  { mnemonic := "LD_B_Vx", mask := 0xF0FF#16, pattern := 0xF033#16 },
  { mnemonic := "LD__I__Vx", mask := 0xF0FF#16, pattern := 0xF055#16 },
  { mnemonic := "LD_Vx__I", mask := 0xF0FF#16, pattern := 0xF065#16 }]

/-- The opcode map: 35 rows (R95), with the mnemonics of spec/opcode_table.json. -/
def opcodeRows : List OpcodeRow := opcodeRowsLow ++ opcodeRowsMid ++ opcodeRowsHigh

/-- An instruction's mnemonic, as spec/opcode_table.json spells it. -/
def Instr.mnemonic : Instr → String
  | .sys _ => "SYS_nnn"
  | .cls => "CLS"
  | .ret => "RET"
  | .jp _ => "JP_nnn"
  | .call _ => "CALL_nnn"
  | .seImm _ _ => "SE_Vx_kk"
  | .sneImm _ _ => "SNE_Vx_kk"
  | .seReg _ _ => "SE_Vx_Vy"
  | .ldImm _ _ => "LD_Vx_kk"
  | .addImm _ _ => "ADD_Vx_kk"
  | .ldReg _ _ => "LD_Vx_Vy"
  | .orReg _ _ => "OR_Vx_Vy"
  | .andReg _ _ => "AND_Vx_Vy"
  | .xorReg _ _ => "XOR_Vx_Vy"
  | .addReg _ _ => "ADD_Vx_Vy"
  | .sub _ _ => "SUB_Vx_Vy"
  | .shr _ => "SHR_Vx"
  | .subn _ _ => "SUBN_Vx_Vy"
  | .shl _ => "SHL_Vx"
  | .sneReg _ _ => "SNE_Vx_Vy"
  | .ldI _ => "LD_I_nnn"
  | .jpV0 _ => "JP_V0_nnn"
  | .rnd _ _ => "RND_Vx_kk"
  | .drw _ _ _ => "DRW_Vx_Vy_n"
  | .skp _ => "SKP_Vx"
  | .sknp _ => "SKNP_Vx"
  | .ldVxDt _ => "LD_Vx_DT"
  | .ldVxK _ => "LD_Vx_K"
  | .ldDtVx _ => "LD_DT_Vx"
  | .ldStVx _ => "LD_ST_Vx"
  | .addI _ => "ADD_I_Vx"
  | .ldF _ => "LD_F_Vx"
  | .ldB _ => "LD_B_Vx"
  | .ldMemVx _ => "LD__I__Vx"
  | .ldVxMem _ => "LD_Vx__I"

end Sys2Proof
end

