-- ==== Sys2Proof/Config.lean ====
section
/-! DEFINITION. What is fixed for a machine: the open parameters of 00_scope.md R6, and the free value of the model.
The fixed sizes of R5 (4096 bytes of memory, 16 registers and keys, a stack of 16, a 64 by 32 display, programs at 512
of at most 3584 bytes) stand as numerals where they are used. The default values of the open parameters stand in Machine/Defaults.lean. -/

namespace Sys2Proof

/-- What `SYS nnn` does: the open parameter SYS_POLICY (00_scope.md R6, 92_eei_decisions.md D5). -/
inductive SysPolicy where
  | nop
  | illegal
deriving DecidableEq, Repr

/-- The open parameters of 00_scope.md R6, fixed for a whole run (R11). DESIGN CHOICE (log 2): a machine carries
its own configuration, so that every statement about a machine holds for every value of them. -/
structure Config where
  /-- SYS_POLICY (41_control_flow.md R140). -/
  sysPolicy : SysPolicy
  /-- DRW_COLLISION_GATED (43_display.md R194). -/
  drwCollisionGated : Bool
  /-- FONT: the 80 bytes at addresses 0 to 79 after RESET (10_state.md R31). -/
  font : Vector Byte 80
deriving DecidableEq, Repr

/-- The free value of the model: `draw8()`, the byte the n-th `RND` of a run draws (42_alu.md R172, 92 D22). It has
no body, so that nothing can be proved about which byte it is (log 3). -/
opaque Config.freeByte : Nat → Byte

end Sys2Proof
end

