-- ==== Sys2Proof/Machine/State.lean ====
section
/-! DEFINITION. The state of the core (10_state.md R20), its reset value (R36), and the reasons a transaction can
stop (60_exceptions.md R260). -/

namespace Sys2Proof.Machine

/-- `KW`, the key-wait capture state (10_state.md R34, 44_keypad.md R210). -/
inductive KeyWait where
  /-- No `LD Vx,K` is in progress. -/
  | idle
  /-- An `LD Vx,K` has executed and waits for a key-down edge. -/
  | armed
  /-- An edge on key `k` arrived while armed; the value waits to be consumed. -/
  | captured (k : Nibble)
deriving DecidableEq, Repr

/-- `DISP`, the 64 by 32 grid of one-bit cells (10_state.md R29), held as 32 rows of 64 columns: `DISP[x][y]` is
`d[y][x]` (log 11). -/
abbrev Display := Vector (Vector Bool 64) 32

/-- `MEM` as the list of the cells that differ from what they hold after RESET with no image (log 5): addresses
strictly rising. -/
abbrev Memory := List Host.Cell

/-- The state of the core: every row of 10_state.md R20, and the model's own `draws` and `config`. -/
structure State where
  /-- `V[0]` to `V[15]` (R21); `V[15]` is the flag register VF (R22). -/
  v : Vector Byte 16
  /-- The address register `I`, never masked (R23). -/
  i : Word
  /-- The program counter: the address of the next instruction's first byte (R24). -/
  pc : Word
  /-- The delay timer (R26). -/
  dt : Byte
  /-- The sound timer (R27). -/
  st : Byte
  /-- The number of live stack entries, 0 to 16 (R28). -/
  sp : Fin 17
  /-- `STACK[0]` to `STACK[15]` (R28). -/
  stack : Vector Word 16
  /-- The display buffer (R29). -/
  disp : Display
  /-- The dirty flag (R30). -/
  dirty : Bool
  /-- `KEYS[0]` to `KEYS[15]`, true meaning down (R33). -/
  keys : Vector Bool 16
  /-- The key-wait capture state (R34). -/
  kw : KeyWait
  /-- The memory (R32). -/
  mem : Memory
  /-- The model's own field: how many bytes `RND` has drawn, which selects the next free byte (log 3). -/
  draws : Nat
  /-- The machine's configuration (00_scope.md R6), which nothing changes (R11; log 2). -/
  config : Config
deriving DecidableEq, Repr

/-- The errors of 60_exceptions.md R260: all fatal, with no handler and no payload (R263). A transaction that answers
one leaves the state of `State.afterError` (precise, D3; log 6). Every one is an error the spec names, so stopping is
what the hardware does: safe. -/
inductive Fault where
  /-- Code 1. Raised by RESET(image) when the image is longer than 3584 bytes (R300). Safe. -/
  | loadError
  /-- Code 2. Raised by every STEP's fetch when `pc >= 4095` (R121). Safe. -/
  | outOfBoundsFetch
  /-- Code 3. Raised by `DRW` and `LD Vx,[I]` when the last byte read lies at or above 4096 (R193, R239). Safe. -/
  | outOfBoundsLoad
  /-- Code 4. Raised by `LD B,Vx` and `LD [I],Vx` when the last byte stored lies at or above 4096 (R237, R238). Safe. -/
  | outOfBoundsStore
  /-- Code 5. Raised by `RET` on the empty stack (R141). Safe. -/
  | stackUnderflow
  /-- Code 6. Raised by `CALL` on the full stack (R143). Safe. -/
  | stackOverflow
  /-- Code 7. Raised by STEP on a word that decodes to nothing (R123), and by `SYS` under `SYS_POLICY = illegal`
  (R140). Safe. -/
  | illegalOpcode
deriving DecidableEq, Repr

/-- Why the model would give an instruction no meaning. -/
inductive Refusal where
  /-- An arm of `exec` with no meaning, by its mnemonic. No arm raises it: all 35 instructions have their meaning.
  Safe. -/
  | notModelled (mnemonic : String)
deriving DecidableEq, Repr

/-- What a STEP answers. -/
abbrev Result := Host.Outcome State Fault Refusal

/-- The state after a successful RESET with the empty image (10_state.md R36), for a configuration. The values of
`disp`, `dirty`, `keys` and `kw` are the spec's decision D2 (log 4); that of `draws` is the model's (log 3). -/
def State.resetWith (c : Config) : State where
  v := Vector.replicate 16 0
  i := 0
  pc := 512
  dt := 0
  st := 0
  sp := 0
  stack := Vector.replicate 16 0
  disp := Vector.replicate 32 (Vector.replicate 64 false)
  dirty := false
  keys := Vector.replicate 16 false
  kw := .idle
  mem := []
  draws := 0
  config := c

/-- The machine right after reset (R36), with the spec's default configuration (R6; log 2). -/
def State.reset : State := State.resetWith Config.standard

end Sys2Proof.Machine
end

