-- ==== Sys2Proof/Machine/Ops.lean ====
section
/-! DEFINITION. The named operations over registers, `pc`, stack, memory and display that the meanings share, and
the raising of an error (60_exceptions.md R263). -/

namespace Sys2Proof.Machine

/-! ### Registers -/

/-- `V[x]` (00_scope.md R8): no register is hard-wired (10_state.md R21). -/
def State.getV (s : State) (x : Nibble) : Byte := s.v[x.toNat]'x.isLt

/-- `V[x] <- b` (R8). -/
def State.setV (s : State) (x : Nibble) (b : Byte) : State := { s with v := s.v.set x.toNat b x.isLt }

/-- The number of the flag register VF (10_state.md R22). -/
abbrev vf : Nibble := 0xF#4

/-- The register writes of a flag-writing instruction: the flag first, the result second, so that for `x = 15` the
result survives and the flag is lost (42_alu.md R160, D13; log 12). -/
def State.setFlagThenV (s : State) (flag : Byte) (x : Nibble) (b : Byte) : State := (s.setV vf flag).setV x b

/-- `I <- a`. -/
def State.setI (s : State) (a : Word) : State := { s with i := a }

/-- `DT <- b`. -/
def State.setDt (s : State) (b : Byte) : State := { s with dt := b }

/-- `ST <- b`. -/
def State.setSt (s : State) (b : Byte) : State := { s with st := b }

/-- `KW <- k`. -/
def State.setKw (s : State) (k : KeyWait) : State := { s with kw := k }

/-- One free byte has been drawn (42_alu.md R172; log 3). -/
def State.countDraw (s : State) : State := { s with draws := s.draws + 1 }

/-- `KEYS[k]` (10_state.md R33). -/
def State.keyDown (s : State) (k : Nibble) : Bool := s.keys[k.toNat]'k.isLt

/-- `KEYS[k] <- pressed`. -/
def State.setKey (s : State) (k : Nibble) (pressed : Bool) : State :=
  { s with keys := s.keys.set k.toNat pressed k.isLt }

/-! ### The program counter (10_state.md R24: net effects) -/

/-- `pc <- target`. -/
def State.jump (s : State) (target : Word) : State := { s with pc := target }

/-- `pc <- pc + 2`. -/
def State.advance (s : State) : State := s.jump (s.pc + 2)

/-- `if cond then pc <- pc + 4 else pc <- pc + 2`: a skip passes over the next two bytes (30_encoding.md R90). -/
def State.skipIf (s : State) (cond : Bool) : State := s.jump (s.pc + if cond then 4 else 2)

/-! ### Errors -/

/-- `raise E` (00_scope.md R8, 60_exceptions.md R263): the STEP ends at once with `Err(E)`. There is no handler and no
saved state; the state the error leaves is `State.afterError`. -/
def raise (e : Fault) : Result := .fault e

/-- `DIRTY <- 0`, the first action of every STEP (40_step_cycle.md R120). -/
def State.clearDirty (s : State) : State := { s with dirty := false }

/-- `DIRTY <- 1`, by `CLS` and `DRW` alone (10_state.md R30). -/
def State.markDirty (s : State) : State := { s with dirty := true }

/-- The state a STEP that raises leaves: nothing changed but `DIRTY <- 0` (60_exceptions.md R263 item 2, D3; log 6). -/
def State.afterError (s : State) : State := s.clearDirty

/-! ### The call stack (10_state.md R28) -/

/-- `STACK[SP] <- a; SP <- SP + 1`, or `StackOverflow` when `SP == 16` (41_control_flow.md R143). -/
def State.push (s : State) (a : Word) : Except Fault State :=
  if h : s.sp.val < 16 then
    .ok { s with stack := s.stack.set s.sp.val a h, sp := ⟨s.sp.val + 1, by omega⟩ }
  else .error .stackOverflow

/-- `SP <- SP - 1` and the entry that was the top, or `StackUnderflow` when `SP == 0` (41_control_flow.md R141). The
popped entry stays in the array (R28, D21). -/
def State.pop (s : State) : Except Fault (Word × State) :=
  if h : s.sp.val = 0 then .error .stackUnderflow
  else .ok (s.stack[s.sp.val - 1]'(by omega), { s with sp := ⟨s.sp.val - 1, by omega⟩ })

/-! ### Memory -/

/-- What an address that the list does not name reads as: the reset content, `FONT` at 0 to 79 and 0 elsewhere
(10_state.md R32, R36; log 5). -/
def resetByte (c : Config) (a : Nat) : Byte := if h : a < 80 then c.font[a] else 0

/-- The byte listed for an address, if any. -/
def Memory.lookup : Memory → Nat → Option Byte
  | [], _ => none
  | (k, b) :: rest, a => if k = a then some b else Memory.lookup rest a

/-- List the byte `b` for the address `a`, or unlist the address when `b` is its reset content `bg`: the canonical
form stays (addresses strictly rising, no entry equal to the reset content). -/
def Memory.store (bg : Byte) (a : Nat) (b : Byte) : Memory → Memory
  | [] => if b = bg then [] else [(a, b)]
  | (k, v) :: rest =>
    if k < a then (k, v) :: Memory.store bg a b rest
    else if k = a then (if b = bg then rest else (a, b) :: rest)
    else if b = bg then (k, v) :: rest
    else (a, b) :: (k, v) :: rest

/-- Addresses strictly rising, from `lo` on. -/
def Memory.risingFrom : Nat → Memory → Bool
  | _, [] => true
  | lo, (k, _) :: rest => decide (lo ≤ k) && Memory.risingFrom (k + 1) rest

/-- The canonical form of memory: addresses strictly rising, all below 4096 (20_memory.md R60), and no entry equal to
what its address reads as unlisted. -/
def Memory.wf (c : Config) (m : Memory) : Bool :=
  Memory.risingFrom 0 m && m.all fun e => decide (e.1 < 4096) && e.2 != resetByte c e.1

/-- `MEM[a]`. -/
def State.readByte (s : State) (a : Nat) : Byte := (Memory.lookup s.mem a).getD (resetByte s.config a)

/-- `MEM[a] <- b`. Every one of the 4096 cells is writable (10_state.md R32, D27). -/
def State.writeByte (s : State) (a : Nat) (b : Byte) : State :=
  { s with mem := Memory.store (resetByte s.config a) a b s.mem }

/-- `MEM[a + j] <- v[j]` in ascending order (20_memory.md R64). -/
def State.writeBytes (s : State) (a : Nat) : List Byte → State
  | [] => s
  | b :: rest => (s.writeByte a b).writeBytes (a + 1) rest

/-- The bounds check of 20_memory.md R62 on `n` bytes at `a`, on unbounded integers (D18): an access of no byte
cannot fail (D17). -/
def outOfBounds (a n : Nat) : Bool := decide (1 ≤ n) && decide (4096 ≤ a + n - 1)

/-- `MemRead(a, n)` (20_memory.md R63), with the error of its access kind (R62): a list of bytes in ascending address
order. -/
def State.memRead (s : State) (e : Fault) (a : Word) (n : Nat) : Except Fault (List Byte) :=
  if outOfBounds a.toNat n then .error e
  else .ok ((List.range n).map fun j => s.readByte (a.toNat + j))

/-- `MemWrite(a, n, v)` with `n` the length of `v` (20_memory.md R64): all of the bytes or none. -/
def State.memWrite (s : State) (a : Word) (bytes : List Byte) : Except Fault State :=
  if outOfBounds a.toNat bytes.length then .error .outOfBoundsStore
  else .ok (s.writeBytes a.toNat bytes)

/-- The registers `V[0] .. ` from a list, in ascending order (45_timer_index_memory.md R239). -/
def State.setVs (s : State) (x : Nat) : List Byte → State
  | [] => s
  | b :: rest => (s.setV (BitVec.ofNat 4 x) b).setVs (x + 1) rest

/-! ### Fetch and decode -/

/-- The fetch stage (40_step_cycle.md R121): two bytes at `pc`, big-endian, or `OutOfBoundsFetch` when `pc + 1` is
beyond memory, in unbounded integers. -/
def State.fetchWord (s : State) : Except Fault Word :=
  if outOfBounds s.pc.toNat 2 then .error .outOfBoundsFetch
  else .ok (wordOfBytes (s.readByte s.pc.toNat) (s.readByte (s.pc.toNat + 1)))

/-- Fetch, then decode (40_step_cycle.md R120): the instruction the next STEP executes, or the error of the first of
the two stages that fails (R125). -/
def State.fetchInstr (s : State) : Except Fault Instr :=
  match s.fetchWord with
  | .error e => .error e
  | .ok w =>
    match decodeWord w with
    | .ok i => .ok i
    | .error _ => .error .illegalOpcode

/-! ### The display (43_display.md R190) -/

/-- `DISP[px][py]`: the types allow no other coordinate (R197, D26). -/
def Display.pixel (d : Display) (px : Fin 64) (py : Fin 32) : Bool := d[py.val][px.val]

/-- `DISP[px][py] <- b`. -/
def Display.setPixel (d : Display) (px : Fin 64) (py : Fin 32) (b : Bool) : Display :=
  d.set py.val (d[py.val].set px.val b)

/-- The display with every cell off (R192). -/
def Display.blank : Display := Vector.replicate 32 (Vector.replicate 64 false)

/-- `DISP <- d`. -/
def State.setDisp (s : State) (d : Display) : State := { s with disp := d }

end Sys2Proof.Machine
end

