-- ==== Sys2Proof/Machine/Flags.lean ====
section
/-! DEFINITION. Every value written to VF as a flag (10_state.md R22): always the full byte 0x00 or 0x01. -/

namespace Sys2Proof.Machine

/-- A flag as the byte VF receives (R22). -/
def flagByte (b : Bool) : Byte := if b then 1 else 0

/-- Carry out of `ADD Vx,Vy`: the exact sum exceeds 255 (42_alu.md R167). -/
def carryFlag (a b : Byte) : Bool := decide (255 < a.toNat + b.toNat)

/-- Not-borrow of `a - b`: `a >= b`, equality included (42_alu.md R168, R170). -/
def notBorrowFlag (a b : Byte) : Bool := decide (b.toNat ≤ a.toNat)

/-- The bit `SHR` shifts out: bit 0 (42_alu.md R169). -/
def shrFlag (a : Byte) : Bool := a.getLsbD 0

/-- The bit `SHL` shifts out: bit 7 (42_alu.md R171). -/
def shlFlag (a : Byte) : Bool := a.getLsbD 7

/-- `collide(s, d)` of 43_display.md R194 for a source bit and a destination cell's prior value, by the parameter
DRW_COLLISION_GATED (D14). -/
def collide (gated src dst : Bool) : Bool := if gated then src && dst else dst

end Sys2Proof.Machine
end

