-- ==== Sys2Proof/Machine/Operands.lean ====
section
/-! DEFINITION. The operand forms (30_encoding.md R93, 45_timer_index_memory.md R230): zero extension, the register
block `V[0..x]`, the key a register selects, the glyph address, the decimal digits and the pixels of a sprite. -/

namespace Sys2Proof.Machine

/-- `zext_16(nnn)` (R93). -/
def zextAddr (nnn : Addr12) : Word := nnn.setWidth 16

/-- `zext_16(V[x])` (R93). -/
def zextByte (b : Byte) : Word := b.setWidth 16

/-- `zext_8(k)` of a key number (44_keypad.md R216). -/
def zextKey (k : Nibble) : Byte := k.setWidth 8

/-- How many registers `LD [I],Vx` and `LD Vx,[I]` move: `x + 1` (45_timer_index_memory.md R238, R239). -/
def blockCount (x : Nibble) : Nat := x.toNat + 1

/-- `[ V[0], V[1], ..., V[x] ]` (R238). -/
def State.blockValues (s : State) (x : Nibble) : List Byte :=
  (List.range (blockCount x)).map fun j => s.getV (BitVec.ofNat 4 j)

/-- The key `SKP` and `SKNP` consult: the low nibble of the register, `a[3:0]` (44_keypad.md R213, D12; log 16). -/
def keyOf (a : Byte) : Nibble := a.setWidth 4

/-- `5 * zext_16(V[x])`, unmasked (45_timer_index_memory.md R236, D11; log 16). -/
def glyphAddress (a : Byte) : Word := 5 * zextByte a

/-- The hundreds, tens and ones digits of a byte (45_timer_index_memory.md R237). -/
def bcdDigits (a : Byte) : List Byte :=
  [BitVec.ofNat 8 (a.toNat / 100), BitVec.ofNat 8 (a.toNat / 10 % 10), BitVec.ofNat 8 (a.toNat % 10)]

/-- One pixel of a sprite as it falls on the display: its cell and its source bit. -/
structure SpritePixel where
  px : Fin 64
  py : Fin 32
  bit : Bool
deriving DecidableEq, Repr

/-- `(a + c) mod 64` on the unwrapped sum (43_display.md R193). -/
def wrapColumn (a : Byte) (c : Nat) : Fin 64 := ⟨(a.toNat + c) % 64, Nat.mod_lt _ (by decide)⟩

/-- `(b + r) mod 32` on the unwrapped sum (R193). -/
def wrapRow (b : Byte) (r : Nat) : Fin 32 := ⟨(b.toNat + r) % 32, Nat.mod_lt _ (by decide)⟩

/-- The eight pixels of row `r` of a sprite at column `a`, row `b`: bit 7 is column 0 (43_display.md R191, D16). -/
def spriteRow (a b : Byte) (r : Nat) (byte : Byte) : List SpritePixel :=
  (List.range 8).map fun c => { px := wrapColumn a c, py := wrapRow b r, bit := byte.getLsbD (7 - c) }

/-- The pixels of a sprite in the order of R193's loops: row `r` is byte `r`. -/
def spritePixels (a b : Byte) (rows : List Byte) : List SpritePixel :=
  rows.zipIdx.flatMap fun p => spriteRow a b p.2 p.1

end Sys2Proof.Machine
end

