-- ==== Sys2Proof/Machine/Alu.lean ====
section
/-! DEFINITION. The register load, arithmetic, logic, shift and random instructions (42_alu.md). Every meaning reads
its operands from the state before the instruction (R160) and ends with `pc <- pc + 2`. -/

namespace Sys2Proof.Machine

/-- `LD Vx,kk` (R161). -/
def execLdImm (x : Nibble) (kk : Byte) (s : State) : Result := .next (s.setV x kk).advance

/-- `ADD Vx,kk` (R162): modulo 256, VF not written as a flag (D32). -/
def execAddImm (x : Nibble) (kk : Byte) (s : State) : Result := .next (s.setV x (s.getV x + kk)).advance

/-- `LD Vx,Vy` (R163). -/
def execLdReg (x y : Nibble) (s : State) : Result := .next (s.setV x (s.getV y)).advance

/-- `OR Vx,Vy` (R164): VF unchanged (D7). -/
def execOrReg (x y : Nibble) (s : State) : Result := .next (s.setV x (s.getV x ||| s.getV y)).advance

/-- `AND Vx,Vy` (R165): VF unchanged (D7). -/
def execAndReg (x y : Nibble) (s : State) : Result := .next (s.setV x (s.getV x &&& s.getV y)).advance

/-- `XOR Vx,Vy` (R166): VF unchanged (D7). -/
def execXorReg (x y : Nibble) (s : State) : Result := .next (s.setV x (s.getV x ^^^ s.getV y)).advance

/-- `ADD Vx,Vy` (R167): the carry to VF, then the sum modulo 256 to `V[x]`. -/
def execAddReg (x y : Nibble) (s : State) : Result :=
  let a := s.getV x
  let b := s.getV y
  .next (s.setFlagThenV (flagByte (carryFlag a b)) x (a + b)).advance

/-- `SUB Vx,Vy` (R168): not-borrow to VF, then `a - b` modulo 256 to `V[x]`. -/
def execSub (x y : Nibble) (s : State) : Result :=
  let a := s.getV x
  let b := s.getV y
  .next (s.setFlagThenV (flagByte (notBorrowFlag a b)) x (a - b)).advance

/-- `SHR Vx` (R169): bit 0 to VF, then the logical shift right by one to `V[x]`. -/
def execShr (x : Nibble) (s : State) : Result :=
  let a := s.getV x
  .next (s.setFlagThenV (flagByte (shrFlag a)) x (a >>> 1)).advance

/-- `SUBN Vx,Vy` (R170): not-borrow of `b - a` to VF, then `b - a` modulo 256 to `V[x]`. -/
def execSubn (x y : Nibble) (s : State) : Result :=
  let a := s.getV x
  let b := s.getV y
  .next (s.setFlagThenV (flagByte (notBorrowFlag b a)) x (b - a)).advance

/-- `SHL Vx` (R171): bit 7 to VF, then the shift left by one, truncated to 8 bits, to `V[x]`. -/
def execShl (x : Nibble) (s : State) : Result :=
  let a := s.getV x
  .next (s.setFlagThenV (flagByte (shlFlag a)) x (a <<< 1)).advance

/-- `RND Vx,kk` (R172): the next free byte under the mask `kk`; the draw is counted, so that every execution draws a
byte of its own (D22; log 3). -/
def execRnd (x : Nibble) (kk : Byte) (s : State) : Result :=
  .next ((s.setV x (Config.freeByte s.draws &&& kk)).countDraw).advance

end Sys2Proof.Machine
end

