-- ==== Sys2Proof/Machine/ControlFlow.lean ====
section
/-! DEFINITION. The control-flow instructions (41_control_flow.md). In every meaning `s.pc` is the address the
instruction was fetched from, and the result's `pc` is the net effect (40_step_cycle.md R124). -/

namespace Sys2Proof.Machine

/-- `SYS nnn` (R140): a no-op or an illegal opcode, by SYS_POLICY; `nnn` is not used. -/
def execSys (_nnn : Addr12) (s : State) : Result :=
  match s.config.sysPolicy with
  | .nop => .next s.advance
  | .illegal => raise .illegalOpcode

/-- `RET` (R141). -/
def execRet (s : State) : Result :=
  match s.pop with
  | .error e => raise e
  | .ok (target, t) => .next (t.jump target)

/-- `JP nnn` (R142). -/
def execJp (nnn : Addr12) (s : State) : Result := .next (s.jump (zextAddr nnn))

/-- `CALL nnn` (R143): the entry pushed is the address of the instruction after the `CALL` (D21). -/
def execCall (nnn : Addr12) (s : State) : Result :=
  match s.push (s.pc + 2) with
  | .error e => raise e
  | .ok t => .next (t.jump (zextAddr nnn))

/-- `SE Vx,kk` (R144). -/
def execSeImm (x : Nibble) (kk : Byte) (s : State) : Result := .next (s.skipIf (s.getV x == kk))

/-- `SNE Vx,kk` (R145). -/
def execSneImm (x : Nibble) (kk : Byte) (s : State) : Result := .next (s.skipIf (s.getV x != kk))

/-- `SE Vx,Vy` (R146). -/
def execSeReg (x y : Nibble) (s : State) : Result := .next (s.skipIf (s.getV x == s.getV y))

/-- `SNE Vx,Vy` (R147). -/
def execSneReg (x y : Nibble) (s : State) : Result := .next (s.skipIf (s.getV x != s.getV y))

/-- `JP V0,nnn` (R148): the sum is kept in 16 bits, and the register is always V0 (D9). -/
def execJpV0 (nnn : Addr12) (s : State) : Result := .next (s.jump (zextAddr nnn + zextByte (s.getV 0)))

end Sys2Proof.Machine
end

