-- ==== Sys2Proof/Machine/DisplayUnit.lean ====
section
/-! DEFINITION. The display instructions and the sprite-draw unit (43_display.md). -/

namespace Sys2Proof.Machine

/-- One turn of R193's inner loop: the collision test on the destination before this draw, then the XOR. -/
def drawPixel (gated : Bool) (acc : Bool × Display) (p : SpritePixel) : Bool × Display :=
  let d := acc.2.pixel p.px p.py
  (acc.1 || collide gated p.bit d, acc.2.setPixel p.px p.py (d ^^ p.bit))

/-- The whole draw of R193: whether some pixel collided, and the display afterwards. -/
def drawSprite (gated : Bool) (d : Display) (pixels : List SpritePixel) : Bool × Display :=
  pixels.foldl (drawPixel gated) (false, d)

/-- `CLS` (R192): every cell off; DIRTY is set even when the display was already off. -/
def execCls (s : State) : Result := .next ((s.setDisp Display.blank).markDirty).advance

/-- `DRW Vx,Vy,n` (R193): the bounds check precedes every write; VF is written on every draw, 1 on collision and 0
otherwise (D15), and DIRTY is set whatever the sprite's bits are. -/
def execDrw (x y n : Nibble) (s : State) : Result :=
  match s.memRead .outOfBoundsLoad s.i n.toNat with
  | .error e => raise e
  | .ok rows =>
    let drawn := drawSprite s.config.drwCollisionGated s.disp (spritePixels (s.getV x) (s.getV y) rows)
    .next (((s.setDisp drawn.2).setV vf (flagByte drawn.1)).markDirty).advance

end Sys2Proof.Machine
end

