-- ==== Sys2Proof/Machine/Keypad.lean ====
section
/-! DEFINITION. The key skips and the blocking key wait (44_keypad.md). -/

namespace Sys2Proof.Machine

/-- `SKP Vx` (R214): level-sensitive, the key of the register's low nibble (R213). -/
def execSkp (x : Nibble) (s : State) : Result := .next (s.skipIf (s.keyDown (keyOf (s.getV x))))

/-- `SKNP Vx` (R215). -/
def execSknp (x : Nibble) (s : State) : Result := .next (s.skipIf (!s.keyDown (keyOf (s.getV x))))

/-- `LD Vx,K` (R216, R210): arm, or wait with `pc` unchanged, or consume the captured key and go on. -/
def execLdVxK (x : Nibble) (s : State) : Result :=
  match s.kw with
  | .idle => .next (s.setKw .armed)
  | .armed => .next s
  | .captured k => .next ((s.setV x (zextKey k)).setKw .idle).advance

end Sys2Proof.Machine
end

