-- ==== Sys2Proof/Machine/TimerIndexMemory.lean ====
section
/-! DEFINITION. The timer, index-register, font, BCD and block-memory instructions (45_timer_index_memory.md). None
writes VF as a flag, and no memory move changes `I` (R230, D8). -/

namespace Sys2Proof.Machine

/-- `LD Vx,DT` (R231). -/
def execLdVxDt (x : Nibble) (s : State) : Result := .next (s.setV x s.dt).advance

/-- `LD DT,Vx` (R232). -/
def execLdDtVx (x : Nibble) (s : State) : Result := .next (s.setDt (s.getV x)).advance

/-- `LD ST,Vx` (R233). -/
def execLdStVx (x : Nibble) (s : State) : Result := .next (s.setSt (s.getV x)).advance

/-- `LD I,nnn` (R234). -/
def execLdI (nnn : Addr12) (s : State) : Result := .next (s.setI (zextAddr nnn)).advance

/-- `ADD I,Vx` (R235): modulo 65536, VF not written (D10). -/
def execAddI (x : Nibble) (s : State) : Result := .next (s.setI (s.i + zextByte (s.getV x))).advance

/-- `LD F,Vx` (R236). -/
def execLdF (x : Nibble) (s : State) : Result := .next (s.setI (glyphAddress (s.getV x))).advance

/-- `LD B,Vx` (R237): hundreds, tens and ones at `I`, `I+1`, `I+2`, or `OutOfBoundsStore` with nothing written. -/
def execLdB (x : Nibble) (s : State) : Result :=
  match s.memWrite s.i (bcdDigits (s.getV x)) with
  | .error e => raise e
  | .ok t => .next t.advance

/-- `LD [I],Vx` (R238): `V[0..x]` to `MEM[I..I+x]`, or `OutOfBoundsStore` with nothing written. -/
def execLdMemVx (x : Nibble) (s : State) : Result :=
  match s.memWrite s.i (s.blockValues x) with
  | .error e => raise e
  | .ok t => .next t.advance

/-- `LD Vx,[I]` (R239): `MEM[I..I+x]` to `V[0..x]`, or `OutOfBoundsLoad` with no register written. -/
def execLdVxMem (x : Nibble) (s : State) : Result :=
  match s.memRead .outOfBoundsLoad s.i (blockCount x) with
  | .error e => raise e
  | .ok bytes => .next (s.setVs 0 bytes).advance

end Sys2Proof.Machine
end

