-- ==== Sys2Proof/Machine/Step.lean ====
section
/-! DEFINITION. The STEP transaction (40_step_cycle.md R120), and the placing of one instruction where it fetches. -/

namespace Sys2Proof.Machine

/-- `STEP` (40_step_cycle.md R120): `DIRTY <- 0`, fetch, decode, execute; the first check that fails ends it with its
error (R125). -/
def step (s : State) : Host.Outcome State Fault Refusal :=
  match s.clearDirty.fetchInstr with
  | .error e => raise e
  | .ok i => exec i s.clearDirty

/-- `s` with the instruction whose bits are `w` stored where STEP fetches next (log 20): at `pc`, which is first set
to 512 when no instruction fits at it (`pc >= 4095`). -/
def State.withFetchWord (s : State) (nbits w : Nat) : State :=
  let word := BitVec.ofNat 16 (w % 2 ^ nbits)
  let t := if outOfBounds s.pc.toNat 2 then s.jump 512 else s
  t.writeBytes t.pc.toNat [hiByte word, loByte word]

end Sys2Proof.Machine
end

