-- ==== Sys2Proof/Machine/HostMoves.lean ====
section
/-! DEFINITION. What the host does to the core between two STEPs (00_scope.md R10, 70_reset_and_hazards.md R308):
RESET(image), TICK, KEY and the two queries, each one atomic function of the state. -/

namespace Sys2Proof.Machine

/-- `RESET(image)` for a configuration (70_reset_and_hazards.md R300): `LoadError` when the image is longer than 3584
bytes, else the reset state with the image at 512, byte for byte. -/
def State.load (c : Config) (image : List Byte) : Result :=
  if 3584 < image.length then raise .loadError
  else .next ((State.resetWith c).writeBytes 512 image)

/-- One timer under TICK: one less, clamped at 0 (60_exceptions.md R275). -/
def tickTimer (t : Byte) : Byte := if t = 0 then 0 else t - 1

/-- `TICK` (R275). -/
def State.tick (s : State) : State := { s with dt := tickTimer s.dt, st := tickTimer s.st }

/-- `KEY(k, pressed)` (44_keypad.md R212): the flag, and the capture of an up-to-down edge while armed. -/
def State.key (s : State) (k : Nibble) (pressed : Bool) : State :=
  if s.kw = .armed ∧ s.keyDown k = false ∧ pressed = true then (s.setKey k pressed).setKw (.captured k)
  else s.setKey k pressed

/-- `DIRTY?` (43_display.md R196). -/
def State.isDirty (s : State) : Bool := s.dirty

/-- `PIXEL?(x, y)` (43_display.md R197). -/
def State.pixelAt (s : State) (px : Fin 64) (py : Fin 32) : Bool := s.disp.pixel px py

/-- The numeric code of an error (60_exceptions.md R260, D4); code 0 is `Ok`. -/
def faultCode : Fault → Nat
  | .loadError => 1
  | .outOfBoundsFetch => 2
  | .outOfBoundsLoad => 3
  | .outOfBoundsStore => 4
  | .stackUnderflow => 5
  | .stackOverflow => 6
  | .illegalOpcode => 7

end Sys2Proof.Machine
end

