-- ==== Sys2Proof/Machine/Transactions.lean ====
section
/-! DEFINITION. The whole interface of the core (00_scope.md R10): one transaction of any kind on a system, and a
schedule of them. A system may hold no machine: before the first RESET and after a `LoadError` (R301, D30). -/

namespace Sys2Proof.Machine

/-- The four transactions and two queries of 00_scope.md R10. The types allow no key above 15 and no cell outside the
display (D26). -/
inductive Transaction where
  | reset (image : List Byte)
  | step
  | tick
  | key (k : Nibble) (pressed : Bool)
  | dirtyQuery
  | pixelQuery (px : Fin 64) (py : Fin 32)
deriving DecidableEq, Repr

/-- What a transaction returns to the host. -/
inductive Response where
  /-- `Ok`, of RESET and STEP. -/
  | ok
  /-- `Err(e)`, of RESET and STEP. -/
  | err (e : Fault)
  /-- Nothing, of TICK and KEY (R275, R212). -/
  | silent
  /-- The answer of a query (R196, R197). -/
  | bit (b : Bool)
deriving DecidableEq, Repr

/-- The error a response reports, if it reports one (60_exceptions.md R263 item 1). -/
def Response.error : Response → Option Fault
  | .err e => some e
  | .ok | .silent | .bit _ => none

/-- A core with its configuration (fixed for the hardware, 00_scope.md R6) and its machine, if one exists (R301). -/
structure System where
  config : Config
  machine : Option State
  /-- The model's own field: the draw counter while there is no machine (log 3). -/
  draws : Nat := 0
  /-- The model's own field, the sticky record that 60_exceptions.md R263 and 93 U2 ask a model to keep: the first error
  since the last RESET, if any (log 26). A system with an error recorded is faulted. -/
  firstError : Option Fault := none
deriving DecidableEq, Repr

/-- How many free bytes the core has drawn so far: RESET does not start the count again, so that no byte drawn before
it comes again after it (log 3). -/
def System.drawn (sys : System) : Nat :=
  match sys.machine with
  | some s => s.draws
  | none => sys.draws

/-- The state a STEP leaves: the next state, or on an error the state with `DIRTY <- 0` and nothing else changed
(60_exceptions.md R263). -/
def State.afterStep (s : State) : State :=
  match step s with
  | .next t => t
  | .fault _ => s.afterError
  | .refused _ => s

/-- What a STEP returns (40_step_cycle.md R120). A refusal, which no instruction gives, would be no answer. -/
def stepResponse (s : State) : Option Response :=
  match step s with
  | .next _ => some .ok
  | .fault e => some (.err e)
  | .refused _ => none

/-- A transaction other than RESET on an existing machine. -/
def transactOn (t : Transaction) (s : State) : Option (Response × State) :=
  match t with
  | .reset _ => none
  | .step => (stepResponse s).map fun r => (r, s.afterStep)
  | .tick => some (.silent, s.tick)
  | .key k pressed => some (.silent, s.key k pressed)
  | .dirtyQuery => some (.bit s.isDirty, s)
  | .pixelQuery px py => some (.bit (s.pixelAt px py), s)

/-- One transaction (00_scope.md R10): its response and the system afterwards, or `none` where the host has no such
move. RESET is always permitted and replaces all state of the spec and the record of the first error; every other
transaction needs a machine (R301), and records its error unless one is recorded already (60_exceptions.md R263). -/
def transact (t : Transaction) (sys : System) : Option (Response × System) :=
  match t with
  | .reset image =>
    match State.load sys.config image with
    | .next s => some (.ok, { sys with machine := some { s with draws := sys.drawn }, firstError := none })
    | .fault e => some (.err e, { sys with machine := none, draws := sys.drawn, firstError := some e })
    | .refused _ => none
  | t =>
    match sys.machine with
    | none => none
    | some s => (transactOn t s).map fun r =>
        (r.1, { sys with machine := some r.2, firstError := sys.firstError.or r.1.error })

/-- A schedule of transactions, in the host's order (R10, 70_reset_and_hazards.md R309): the responses and the system
afterwards, or `none` when the host has no such move. -/
def runSchedule : List Transaction → System → Option (List Response × System)
  | [], sys => some ([], sys)
  | t :: rest, sys =>
    match transact t sys with
    | none => none
    | some (r, sys') => (runSchedule rest sys').map fun p => (r :: p.1, p.2)

end Sys2Proof.Machine
end

