-- ==== Sys2Proof/Safety.lean ====
section
/-! DEFINITION. The terms claims use: what an instruction may write (10_state.md R37), the frame that says nothing else
changed, the invariant of the machine, the settled states and end states of 70_reset_and_hazards.md R309, and a safe run. -/

namespace Sys2Proof.Machine

/-- A row of the write column of 10_state.md R37: which registers, memory addresses and stack entries may be written,
and which of the single pieces of state. `pc` stands in no row: every STEP writes it. -/
structure Writes where
  /-- The general registers. -/
  regs : List Nibble := []
  /-- The addresses of memory. -/
  bytes : List Nat := []
  /-- The stack entries, by index. -/
  entries : List Nat := []
  i : Bool := false
  dt : Bool := false
  st : Bool := false
  sp : Bool := false
  disp : Bool := false
  dirty : Bool := false
  kw : Bool := false
  /-- The model's own draw counter (log 3). -/
  draws : Bool := false

/-- Nothing changed between `s` and `t` but what `w` names and `pc`: every other register, every byte of
memory outside `w.bytes`, every stack entry outside `w.entries`, the keys and the configuration. -/
structure Frame (w : Writes) (s t : State) : Prop where
  regs : ∀ r, r ∉ w.regs → t.getV r = s.getV r
  bytes : ∀ a, a ∉ w.bytes → t.readByte a = s.readByte a
  entries : ∀ j : Fin 16, j.val ∉ w.entries → t.stack[j] = s.stack[j]
  i : w.i = false → t.i = s.i
  dt : w.dt = false → t.dt = s.dt
  st : w.st = false → t.st = s.st
  sp : w.sp = false → t.sp = s.sp
  disp : w.disp = false → t.disp = s.disp
  dirty : w.dirty = false → t.dirty = s.dirty
  kw : w.kw = false → t.kw = s.kw
  draws : w.draws = false → t.draws = s.draws
  keys : t.keys = s.keys
  config : t.config = s.config

/-- The `n` addresses from the one in `I`: where `LD B,Vx` and `LD [I],Vx` store (20_memory.md R64). -/
def State.addressesFromI (s : State) (n : Nat) : List Nat := (List.range n).map fun j => s.i.toNat + j

/-- The registers `V0..Vx` (10_state.md R37). -/
def registersUpTo (x : Nibble) : List Nibble := (List.range (blockCount x)).map fun j => BitVec.ofNat 4 j

/-- The write column of 10_state.md R37, row by row, for the state an instruction executes on. -/
def writesOf (i : Instr) (s : State) : Writes :=
  match i with
  | .sys _ | .jp _ | .seImm _ _ | .sneImm _ _ | .seReg _ _ | .sneReg _ _ | .jpV0 _ | .skp _ | .sknp _ => {}
  | .cls => { disp := true, dirty := true }
  | .ret => { sp := true }
  | .call _ => { entries := [s.sp.val], sp := true }
  | .ldImm x _ | .addImm x _ | .ldReg x _ | .orReg x _ | .andReg x _ | .xorReg x _ | .ldVxDt x => { regs := [x] }
  | .addReg x _ | .sub x _ | .shr x | .subn x _ | .shl x => { regs := [vf, x] }
  | .ldI _ | .addI _ | .ldF _ => { i := true }
  | .rnd x _ => { regs := [x], draws := true }
  | .drw _ _ _ => { regs := [vf], disp := true, dirty := true }
  | .ldVxK x => { regs := [x], kw := true }
  | .ldDtVx _ => { dt := true }
  | .ldStVx _ => { st := true }
  | .ldB _ => { bytes := s.addressesFromI 3 }
  | .ldMemVx x => { bytes := s.addressesFromI (blockCount x) }
  | .ldVxMem x => { regs := registersUpTo x }

/-- The table of 10_state.md R24: `pc` after an instruction that completes, from the state it executes on. -/
def pcAfter (i : Instr) (s : State) : Word :=
  match i with
  | .jp nnn | .call nnn => zextAddr nnn
  | .jpV0 nnn => zextAddr nnn + zextByte (s.getV 0)
  | .ret => s.stack.getD (s.sp.val - 1) 0
  | .seImm x kk => if s.getV x = kk then s.pc + 4 else s.pc + 2
  | .sneImm x kk => if s.getV x = kk then s.pc + 2 else s.pc + 4
  | .seReg x y => if s.getV x = s.getV y then s.pc + 4 else s.pc + 2
  | .sneReg x y => if s.getV x = s.getV y then s.pc + 2 else s.pc + 4
  | .skp x => if s.keyDown (keyOf (s.getV x)) then s.pc + 4 else s.pc + 2
  | .sknp x => if s.keyDown (keyOf (s.getV x)) then s.pc + 2 else s.pc + 4
  | .ldVxK _ =>
    match s.kw with
    | .captured _ => s.pc + 2
    | .idle | .armed => s.pc
  | .sys _ | .cls | .ldImm _ _ | .addImm _ _ | .ldReg _ _ | .orReg _ _ | .andReg _ _ | .xorReg _ _ | .addReg _ _
  | .sub _ _ | .shr _ | .subn _ _ | .shl _ | .ldI _ | .rnd _ _ | .drw _ _ _ | .ldVxDt _ | .ldDtVx _ | .ldStVx _
  | .addI _ | .ldF _ | .ldB _ | .ldMemVx _ | .ldVxMem _ => s.pc + 2

/-- The invariant of a machine that some schedule reaches. -/
structure State.Inv (s : State) : Prop where
  /-- Memory is in its canonical form and names no address at or above 4096 (20_memory.md R60). -/
  memory : Memory.wf s.config s.mem = true
  /-- "every value ever assigned to `pc` is at most 4350" (10_state.md R25). -/
  pcBound : s.pc.toNat ≤ 4350
  /-- Every live stack entry was pushed as `pc + 2 <= 4096` (R25, R28). -/
  stackBound : ∀ j : Fin 16, j.val < s.sp.val → s.stack[j].toNat ≤ 4096
  /-- While a key wait is in progress, `pc` addresses the `LD Vx,K` that armed it (44_keypad.md R210). -/
  waiting : s.kw ≠ .idle → ∃ x, s.fetchInstr = .ok (.ldVxK x)

/-- The invariant of a system: its machine, if any, has its configuration and meets `State.Inv`, and the next STEP of a
faulted one fails with the recorded error (60_exceptions.md R263 item 3). -/
def System.Inv (sys : System) : Prop :=
  ∀ s, sys.machine = some s → s.config = sys.config ∧ s.Inv ∧ ∀ e, sys.firstError = some e → step s = .fault e

/-- Settled (70_reset_and_hazards.md R309 item 3): `MEM[pc] = 0x10 | (pc >> 8)` and `MEM[pc+1] = pc & 0xFF`, so that the
word at `pc` is `JP pc`, and no key wait is in progress. -/
def State.Settled (s : State) : Prop :=
  s.pc.toNat ≤ 4094 ∧ s.readByte s.pc.toNat = 0x10#8 ||| (s.pc >>> 8).setWidth 8 ∧
    s.readByte (s.pc.toNat + 1) = s.pc.setWidth 8 ∧ s.kw = .idle

/-- A safe run: every response of the schedule is free of errors, and no error is recorded at its end, so that a faulted
system has no safe run until a RESET (60_exceptions.md R263, log 26). -/
def SafeRun (schedule : List Transaction) (sys : System) : Prop :=
  ∃ responses sys', runSchedule schedule sys = some (responses, sys') ∧ (∀ e, Response.err e ∉ responses) ∧
    sys'.firstError = none

/-- The run of a finite schedule ends in the state `s` after its last transaction (70_reset_and_hazards.md R309 item 4). A
faulted run has no end state (R309 item 2, 60_exceptions.md R263). -/
def EndsIn (schedule : List Transaction) (sys : System) (s : State) : Prop :=
  ∃ responses sys', runSchedule schedule sys = some (responses, sys') ∧ sys'.firstError = none ∧ sys'.machine = some s

end Sys2Proof.Machine
end

