-- ==== Sys2Proof/Certificates/Slice0/Obligations.lean ====
section
/-! DEFINITION. The statements for the provers. Each docstring says which rule of spec/ it formalises; where a clause
rests on a decision of the spec (92_eei_decisions.md) or a choice of the model (a log entry) it says so. `Frame w s t`
(Sys2Proof/Safety.lean) says that nothing changed but what `w` names and `pc`. -/

open Sys2Proof Sys2Proof.Machine

/-! ### Encoding and decoding -/

/-- 30_encoding.md R95: fifteen words, at least one of each format, written out nibble by nibble from families 0x0 to
0x3, 0x5, 0x8, 0xA and 0xC to 0xF; and two illegal words of R104. That 0x5121 is illegal is the spec's decision D6 (log 9,
DESIGN CHOICE). -/
def Obligations.SampleWordsDecodeAsEncoded : Prop :=
  decodeWord 0x0123#16 = .ok (.sys 0x123) ∧ decodeWord 0x00E0#16 = .ok .cls ∧ decodeWord 0x00EE#16 = .ok .ret ∧
  decodeWord 0x1300#16 = .ok (.jp 0x300) ∧ decodeWord 0x2ABC#16 = .ok (.call 0xABC) ∧
  decodeWord 0x3A42#16 = .ok (.seImm 0xA 0x42) ∧ decodeWord 0x5120#16 = .ok (.seReg 0x1 0x2) ∧
  decodeWord 0x8AB4#16 = .ok (.addReg 0xA 0xB) ∧ decodeWord 0x8AB6#16 = .ok (.shr 0xA) ∧
  decodeWord 0xA2F0#16 = .ok (.ldI 0x2F0) ∧ decodeWord 0xC30F#16 = .ok (.rnd 0x3 0x0F) ∧
  decodeWord 0xD125#16 = .ok (.drw 0x1 0x2 0x5) ∧ decodeWord 0xE59E#16 = .ok (.skp 0x5) ∧
  decodeWord 0xF30A#16 = .ok (.ldVxK 0x3) ∧ decodeWord 0xF255#16 = .ok (.ldMemVx 0x2) ∧
  decodeWord 0x5121#16 = .error .illegalOpcode ∧ decodeWord 0xF075#16 = .error .illegalOpcode

/-- 30_encoding.md R94, R95: decoding the word of a well-formed instruction gives it back, every operand at every
value; and the decoder on bytes takes exactly the instruction's two bytes (R90), the high byte first (R65). -/
def Obligations.DecodeOfEncodeIsTheInstruction : Prop :=
  ∀ i : Instr, i.wf = true →
    decodeWord (encode i) = .ok i ∧ ∀ rest, decode (encodeBytes i ++ rest) = .ok (i, rest)

/-- 30_encoding.md R94, R105: a legal word decodes to a well-formed instruction whose word is that word, the ignored `y`
nibble of `SHR` and `SHL` cleared (the canonical form, decision D33; log 8); so no other bit of a legal word is
dropped. -/
def Obligations.EncodeOfDecodeIsTheCanonicalWord : Prop :=
  ∀ (w : Word) (i : Instr), decodeWord w = .ok i → i.wf = true ∧ encode i = canonicalWord w

/-- 30_encoding.md R95: the opcode map has 35 rows, and a word selects a row of it (by its mask and match, the `SYS` row
excluding two words) exactly when it decodes to that row's operation. -/
def Obligations.RowSelectedExactlyWhenDecoded : Prop :=
  opcodeRows.length = 35 ∧ ∀ (w : Word), ∀ r ∈ opcodeRows,
    r.selects w = true ↔ ∃ i, decodeWord w = .ok i ∧ i.mnemonic = r.mnemonic

/-- 30_encoding.md R104: the words the decoder rejects are exactly those of the table of illegal words (the strict
test in families 0x5 and 0x9 is the spec's decision D6), and it rejects a word by no other name. -/
def Obligations.IllegalWordsAreExactlyTheTable : Prop :=
  ∀ w : Word,
    decodeWord w ≠ .error .truncated ∧
    (decodeWord w = .error .illegalOpcode ↔
      (opField w = 0x5#4 ∧ nField w ≠ 0x0#4) ∨
      (opField w = 0x8#4 ∧ nField w ∈ [0x8#4, 0x9#4, 0xA#4, 0xB#4, 0xC#4, 0xD#4, 0xF#4]) ∨
      (opField w = 0x9#4 ∧ nField w ≠ 0x0#4) ∨
      (opField w = 0xE#4 ∧ kkField w ∉ [0x9E#8, 0xA1#8]) ∨
      (opField w = 0xF#4 ∧ kkField w ∉ [0x07#8, 0x0A#8, 0x15#8, 0x18#8, 0x1E#8, 0x29#8, 0x33#8, 0x55#8, 0x65#8]))

/-! ### The STEP transaction -/

/-- 40_step_cycle.md R120: when the two bytes at `pc` decode to an instruction, STEP clears DIRTY and executes it. -/
def Obligations.StepRunsTheDecodedInstruction : Prop :=
  ∀ (s : State) (i : Instr), s.pc.toNat ≤ 4094 →
    decode [s.readByte s.pc.toNat, s.readByte (s.pc.toNat + 1)] = .ok (i, []) → step s = exec i s.clearDirty

/-- The placing of one instruction where STEP fetches (log 20): for a word that decodes, the very next STEP runs its
instruction. -/
def Obligations.PlacedWordRunsNext : Prop :=
  ∀ (s : State) (w : Nat) (i : Instr), Memory.wf s.config s.mem = true → decodeTableWord 16 w = some i →
    step (s.withFetchWord 16 w) = exec i (s.withFetchWord 16 w).clearDirty

/-- 40_step_cycle.md R121: STEP fails with `OutOfBoundsFetch` exactly when `pc + 1` lies at or above 4096, in unbounded
integers; from any lower `pc`, odd or even, the fetch gives the word whose high byte is at `pc` and whose low byte is at
`pc + 1`. -/
def Obligations.FetchFailsExactlyBeyondMemory : Prop :=
  ∀ s : State, (step s = .fault .outOfBoundsFetch ↔ 4096 ≤ s.pc.toNat + 1) ∧
    (s.pc.toNat ≤ 4094 → ∃ w, s.fetchWord = .ok w ∧
      hiByte w = s.readByte s.pc.toNat ∧ loByte w = s.readByte (s.pc.toNat + 1))

/-- 60_exceptions.md R260, the rows of the six execution errors: each is raised exactly when its row says (the error
names of `DRW` and the block transfers are the spec's decisions D17, D18), and STEP never raises `LoadError`. -/
def Obligations.ExecutionErrorsExactlyWhen : Prop :=
  ∀ s : State,
    let w := wordOfBytes (s.readByte s.pc.toNat) (s.readByte (s.pc.toNat + 1))
    let fetched := s.pc.toNat ≤ 4094
    (step s = .fault .outOfBoundsFetch ↔ 4095 ≤ s.pc.toNat) ∧
    (step s = .fault .outOfBoundsLoad ↔ fetched ∧
      ((∃ x y n, decodeWord w = .ok (.drw x y n) ∧ 1 ≤ n.toNat ∧ 4096 ≤ s.i.toNat + n.toNat - 1) ∨
        ∃ x, decodeWord w = .ok (.ldVxMem x) ∧ 4096 ≤ s.i.toNat + x.toNat)) ∧
    (step s = .fault .outOfBoundsStore ↔ fetched ∧
      ((∃ x, decodeWord w = .ok (.ldB x) ∧ 4096 ≤ s.i.toNat + 2) ∨
        ∃ x, decodeWord w = .ok (.ldMemVx x) ∧ 4096 ≤ s.i.toNat + x.toNat)) ∧
    (step s = .fault .stackUnderflow ↔ fetched ∧ decodeWord w = .ok .ret ∧ s.sp.val = 0) ∧
    (step s = .fault .stackOverflow ↔ fetched ∧ ∃ nnn, decodeWord w = .ok (.call nnn) ∧ s.sp.val = 16) ∧
    (step s = .fault .illegalOpcode ↔ fetched ∧ (decodeWord w = .error .illegalOpcode ∨
      ∃ nnn, decodeWord w = .ok (.sys nnn) ∧ s.config.sysPolicy = .illegal)) ∧
    step s ≠ .fault .loadError

/-- 60_exceptions.md R263 items 2 and 3 (the spec's decision D3; log 6): a STEP that fails changes nothing but
`DIRTY <- 0` and is recorded as the first error of the run, and after any further transactions other than RESET the record
is the same and the next STEP fails with the same error. The record is the model's own field (log 26). -/
def Obligations.ErrorsArePreciseAndPersistent : Prop :=
  ∀ (s : State) (e : Fault), step s = .fault e →
    transact .step { config := s.config, machine := some s } =
      some (.err e, { config := s.config, machine := some s.afterStep, firstError := some e }) ∧
    s.afterStep = { s with dirty := false } ∧
    ∀ (schedule : List Transaction) (responses : List Response) (sys : System) (u : State),
      (∀ image, Transaction.reset image ∉ schedule) →
      runSchedule schedule { config := s.config, machine := some s.afterStep, firstError := some e } =
        some (responses, sys) →
      sys.machine = some u → step u = .fault e ∧ sys.firstError = some e

/-- Every one of the 35 instructions has a meaning in every state: no instruction is refused (60_exceptions.md R269:
every instruction may be executed at any time). -/
def Obligations.NoInstructionIsRefused : Prop :=
  ∀ (i : Instr) (s : State) (r : Refusal), exec i s ≠ .refused r ∧ step s ≠ .refused r

/-- 10_state.md R30: after a STEP, DIRTY is 1 exactly when that STEP executed `CLS` or `DRW` without error; TICK and KEY
do not change it. -/
def Obligations.DirtyAfterStepExactlyWhenDisplayWritten : Prop :=
  ∀ s : State,
    (s.afterStep.dirty = true ↔ (∃ t, step s = .next t) ∧
      (s.fetchInstr = .ok .cls ∨ ∃ x y n, s.fetchInstr = .ok (.drw x y n))) ∧
    s.tick.dirty = s.dirty ∧ ∀ k pressed, (s.key k pressed).dirty = s.dirty

/-- 10_state.md R24: every instruction that completes leaves `pc` at the value of the table, and a STEP that raises an
error leaves `pc` unchanged. -/
def Obligations.ProgramCounterAfterEveryInstruction : Prop :=
  (∀ (i : Instr) (s t : State), exec i s = .next t → t.pc = pcAfter i s) ∧
    ∀ (s : State) (e : Fault), step s = .fault e → s.afterStep.pc = s.pc

/-- The write column of 10_state.md R37 for all 35 instructions, which the spec derives from the instruction rules: an
instruction that completes changes nothing outside its row. Memory in its canonical form is part of the invariant
(log 5). The draw counter of the model (log 3) stands in the row of `RND`. -/
def Obligations.EveryInstructionWritesOnlyItsRow : Prop :=
  ∀ (i : Instr) (s t : State), Memory.wf s.config s.mem = true → exec i s = .next t → Frame (writesOf i s) s t

/-! ### Invariants and whole-machine rules -/

/-- The invariant holds right after reset (10_state.md R36). That no key wait is in progress there is `KW = Idle`, which the
spec decides (D2; log 4, DESIGN CHOICE). -/
def Obligations.ResetMeetsTheInvariant : Prop := State.reset.Inv

/-- Every STEP keeps the invariant: canonical memory of 4096 cells (20_memory.md R60; log 5), `pc` at most 4350 and live
stack entries at most 4096 (10_state.md R25, which the spec derives), and a key wait only at an `LD Vx,K` (44_keypad.md
R210, which the spec derives). -/
def Obligations.StepKeepsTheInvariant : Prop :=
  ∀ s t : State, s.Inv → step s = .next t → t.Inv

/-- Every schedule of transactions, errors and RESETs among them, keeps the invariant of the system; so every machine
that any run reaches meets it (00_scope.md R10, 10_state.md R25), and a faulted one fails with its recorded error again
(60_exceptions.md R263, the spec's decision D3; log 26). -/
def Obligations.EveryScheduleKeepsTheInvariant : Prop :=
  ∀ (schedule : List Transaction) (sys sys' : System) (responses : List Response), sys.Inv →
    runSchedule schedule sys = some (responses, sys') → sys'.Inv ∧ sys'.config = sys.config

/-- 10_state.md R27 "Nothing reads it" of the sound timer, and R30 "no instruction reads it" of DIRTY: two states that
differ only in ST and DIRTY step alike, to states that differ only in ST. -/
def Obligations.SoundTimerAndDirtyAreNeverRead : Prop :=
  ∀ (s t : State) (v : Byte) (d : Bool) (e : Fault),
    let s' : State := { s with st := v, dirty := d }
    (step s = .next t → ∃ v', step s' = .next { t with st := v' }) ∧ (step s = .fault e → step s' = .fault e)

/-- 10_state.md R28 (the spec's decision D21): the stack entries at index `SP` and above cannot be observed: two states
that differ only in them step alike, to states that differ only in such entries. -/
def Obligations.DeadStackEntriesAreNeverRead : Prop :=
  ∀ (s t : State) (entries : Vector Word 16) (e : Fault), (∀ j : Fin 16, j.val < s.sp.val → entries[j] = s.stack[j]) →
    let s' : State := { s with stack := entries }
    (step s = .fault e → step s' = .fault e) ∧
    (step s = .next t → ∃ entries' : Vector Word 16, step s' = .next { t with stack := entries' } ∧
      ∀ j : Fin 16, j.val < t.sp.val → entries'[j] = t.stack[j])

/-! ### Control flow (41_control_flow.md) -/

/-- R140 (SYS_POLICY is the spec's open parameter, D5): a no-op or an illegal opcode, for every `nnn`. -/
def Obligations.SysFollowsItsPolicy : Prop :=
  ∀ (nnn : Addr12) (s : State),
    (s.config.sysPolicy = .nop → ∃ t, exec (.sys nnn) s = .next t ∧ t.pc = s.pc + 2 ∧ Frame {} s t) ∧
    (s.config.sysPolicy = .illegal → exec (.sys nnn) s = .fault .illegalOpcode)

/-- R142: `pc` becomes `nnn` and nothing else changes. -/
def Obligations.JumpGoesToItsTarget : Prop :=
  ∀ (nnn : Addr12) (s : State), ∃ t, exec (.jp nnn) s = .next t ∧ t.pc.toNat = nnn.toNat ∧ Frame {} s t

/-- R148 (V0 and the unmasked sum are the spec's decision D9): `pc` becomes `nnn + V[0]`, not reduced modulo 4096. -/
def Obligations.JumpV0AddsRegisterZero : Prop :=
  ∀ (nnn : Addr12) (s : State), ∃ t, exec (.jpV0 nnn) s = .next t ∧
    t.pc.toNat = nnn.toNat + (s.getV 0).toNat ∧ Frame {} s t

/-- R143 (that the entry is `pc + 2` is the spec's decision D21): below depth 16 the return address is pushed and `pc`
becomes `nnn`; at depth 16 `StackOverflow`. -/
def Obligations.CallPushesTheReturnAddress : Prop :=
  ∀ (nnn : Addr12) (s : State),
    (s.sp.val < 16 → ∃ t, exec (.call nnn) s = .next t ∧ t.pc.toNat = nnn.toNat ∧ t.sp.val = s.sp.val + 1 ∧
      (∀ j : Fin 16, t.stack[j] = if j.val = s.sp.val then s.pc + 2 else s.stack[j]) ∧
      Frame { entries := [s.sp.val], sp := true } s t) ∧
    (s.sp.val = 16 → exec (.call nnn) s = .fault .stackOverflow)

/-- R141 (that the popped entry stays in the array is the spec's decision D21 in 10_state.md R28; log 10, DESIGN CHOICE):
the top entry becomes `pc` and SP goes down by one; on the empty stack `StackUnderflow`. -/
def Obligations.ReturnPopsTheTopEntry : Prop :=
  ∀ s : State,
    (∀ h : s.sp.val ≠ 0, ∃ t, exec .ret s = .next t ∧ t.pc = s.stack[s.sp.val - 1]'(by omega) ∧
      t.sp.val = s.sp.val - 1 ∧ Frame { sp := true } s t) ∧
    (s.sp.val = 0 → exec .ret s = .fault .stackUnderflow)

/-- 41_control_flow.md R141, R143 and decision D21: after a `CALL`, a `RET` from any state with the stack the `CALL`
left resumes at the instruction after the `CALL`, at the depth before it. -/
def Obligations.ReturnResumesAfterTheCall : Prop :=
  ∀ (nnn : Addr12) (s t u : State), exec (.call nnn) s = .next t → u.sp = t.sp → u.stack = t.stack →
    ∃ u', exec .ret u = .next u' ∧ u'.pc = s.pc + 2 ∧ u'.sp = s.sp

/-- R144 to R147: the four compare-and-skip instructions add 4 to `pc` when their condition holds and 2 when it does
not, and change nothing else. -/
def Obligations.CompareSkipsPassOverOneInstruction : Prop :=
  ∀ (x y : Nibble) (kk : Byte) (s : State),
    (∃ t, exec (.seImm x kk) s = .next t ∧ Frame {} s t ∧
      t.pc = if (s.getV x).toNat = kk.toNat then s.pc + 4 else s.pc + 2) ∧
    (∃ t, exec (.sneImm x kk) s = .next t ∧ Frame {} s t ∧
      t.pc = if (s.getV x).toNat = kk.toNat then s.pc + 2 else s.pc + 4) ∧
    (∃ t, exec (.seReg x y) s = .next t ∧ Frame {} s t ∧
      t.pc = if (s.getV x).toNat = (s.getV y).toNat then s.pc + 4 else s.pc + 2) ∧
    (∃ t, exec (.sneReg x y) s = .next t ∧ Frame {} s t ∧
      t.pc = if (s.getV x).toNat = (s.getV y).toNat then s.pc + 2 else s.pc + 4)

/-! ### Registers and ALU (42_alu.md) -/

/-- R161, R163: `LD Vx,kk` and `LD Vx,Vy` copy their source to `V[x]`; VF is unchanged unless it is `V[x]`. -/
def Obligations.RegisterLoadsCopyTheirSource : Prop :=
  ∀ (x y : Nibble) (kk : Byte) (s : State),
    (∃ t, exec (.ldImm x kk) s = .next t ∧ t.getV x = kk ∧ t.pc = s.pc + 2 ∧ Frame { regs := [x] } s t) ∧
    (∃ t, exec (.ldReg x y) s = .next t ∧ t.getV x = s.getV y ∧ t.pc = s.pc + 2 ∧ Frame { regs := [x] } s t)

/-- R162 (that VF is not written is the spec's decision D32): the sum modulo 256, and no flag. -/
def Obligations.AddImmediateWrapsWithoutFlag : Prop :=
  ∀ (x : Nibble) (kk : Byte) (s : State), ∃ t, exec (.addImm x kk) s = .next t ∧
    (t.getV x).toNat = ((s.getV x).toNat + kk.toNat) % 256 ∧ t.pc = s.pc + 2 ∧ Frame { regs := [x] } s t

/-- R164 to R166: OR, AND and XOR work on each bit; VF is unchanged unless it is `V[x]`, the spec's decision D7 (log 13,
DESIGN CHOICE). -/
def Obligations.BitwiseOperationsActOnEachBit : Prop :=
  ∀ (x y : Nibble) (s : State),
    (∃ t, exec (.orReg x y) s = .next t ∧ t.pc = s.pc + 2 ∧ Frame { regs := [x] } s t ∧
      ∀ j, (t.getV x).getLsbD j = ((s.getV x).getLsbD j || (s.getV y).getLsbD j)) ∧
    (∃ t, exec (.andReg x y) s = .next t ∧ t.pc = s.pc + 2 ∧ Frame { regs := [x] } s t ∧
      ∀ j, (t.getV x).getLsbD j = ((s.getV x).getLsbD j && (s.getV y).getLsbD j)) ∧
    (∃ t, exec (.xorReg x y) s = .next t ∧ t.pc = s.pc + 2 ∧ Frame { regs := [x] } s t ∧
      ∀ j, (t.getV x).getLsbD j = ((s.getV x).getLsbD j ^^ (s.getV y).getLsbD j))

/-- R167, R168, R170 where neither operand is VF: the flag is the carry, the not-borrow of `a - b` or of `b - a`, and
the result is the exact one modulo 256. The forms with an operand VF are in `FlagWritersWithOperandVf`. -/
def Obligations.AddSubtractSetTheFlag : Prop :=
  ∀ (x y : Nibble) (s : State), x ≠ vf → y ≠ vf →
    let a := (s.getV x).toNat
    let b := (s.getV y).toNat
    (∃ t, exec (.addReg x y) s = .next t ∧ (t.getV x).toNat = (a + b) % 256 ∧
      t.getV vf = (if 255 < a + b then 1 else 0) ∧ t.pc = s.pc + 2 ∧ Frame { regs := [vf, x] } s t) ∧
    (∃ t, exec (.sub x y) s = .next t ∧ (t.getV x).toNat = (a + 256 - b) % 256 ∧
      t.getV vf = (if b ≤ a then 1 else 0) ∧ t.pc = s.pc + 2 ∧ Frame { regs := [vf, x] } s t) ∧
    (∃ t, exec (.subn x y) s = .next t ∧ (t.getV x).toNat = (b + 256 - a) % 256 ∧
      t.getV vf = (if a ≤ b then 1 else 0) ∧ t.pc = s.pc + 2 ∧ Frame { regs := [vf, x] } s t)

/-- R169, R171 where the operand is not VF: VF is the bit shifted out, and the result the shift by one of `V[x]` alone.
The form `x = 15` is in `FlagWritersWithOperandVf`. -/
def Obligations.ShiftsMoveOneBitIntoTheFlag : Prop :=
  ∀ (x : Nibble) (s : State), x ≠ vf →
    let a := (s.getV x).toNat
    (∃ t, exec (.shr x) s = .next t ∧ (t.getV x).toNat = a / 2 ∧ (t.getV vf).toNat = a % 2 ∧
      t.pc = s.pc + 2 ∧ Frame { regs := [vf, x] } s t) ∧
    (∃ t, exec (.shl x) s = .next t ∧ (t.getV x).toNat = 2 * a % 256 ∧ (t.getV vf).toNat = a / 128 ∧
      t.pc = s.pc + 2 ∧ Frame { regs := [vf, x] } s t)

/-- 42_alu.md section 1 (R160, the spec's decision D13; log 12): with `x = 15` the result, computed from the old VF,
survives and the flag is lost; with `y = 15` alone the old VF is the second operand and both writes land. -/
def Obligations.FlagWritersWithOperandVf : Prop :=
  ∀ (x y : Nibble) (s : State), x ≠ vf →
    let f := (s.getV vf).toNat
    let a := (s.getV x).toNat
    let b := (s.getV y).toNat
    (∃ t, exec (.addReg vf y) s = .next t ∧ (t.getV vf).toNat = (f + b) % 256 ∧ t.pc = s.pc + 2 ∧
      Frame { regs := [vf] } s t) ∧
    (∃ t, exec (.sub vf y) s = .next t ∧ (t.getV vf).toNat = (f + 256 - b) % 256 ∧ t.pc = s.pc + 2 ∧
      Frame { regs := [vf] } s t) ∧
    (∃ t, exec (.subn vf y) s = .next t ∧ (t.getV vf).toNat = (b + 256 - f) % 256 ∧ t.pc = s.pc + 2 ∧
      Frame { regs := [vf] } s t) ∧
    (∃ t, exec (.shr vf) s = .next t ∧ (t.getV vf).toNat = f / 2 ∧ t.pc = s.pc + 2 ∧ Frame { regs := [vf] } s t) ∧
    (∃ t, exec (.shl vf) s = .next t ∧ (t.getV vf).toNat = 2 * f % 256 ∧ t.pc = s.pc + 2 ∧
      Frame { regs := [vf] } s t) ∧
    (∃ t, exec (.addReg x vf) s = .next t ∧ (t.getV x).toNat = (a + f) % 256 ∧
      t.getV vf = (if 255 < a + f then 1 else 0) ∧ t.pc = s.pc + 2 ∧ Frame { regs := [vf, x] } s t) ∧
    (∃ t, exec (.sub x vf) s = .next t ∧ (t.getV x).toNat = (a + 256 - f) % 256 ∧
      t.getV vf = (if f ≤ a then 1 else 0) ∧ t.pc = s.pc + 2 ∧ Frame { regs := [vf, x] } s t) ∧
    (∃ t, exec (.subn x vf) s = .next t ∧ (t.getV x).toNat = (f + 256 - a) % 256 ∧
      t.getV vf = (if a ≤ f then 1 else 0) ∧ t.pc = s.pc + 2 ∧ Frame { regs := [vf, x] } s t)

/-- 30_encoding.md R105: every `y` nibble of `8xy6` and of `8xyE` decodes to the same operation, and the canonical
encoding has `y = 0` (decision D33). -/
def Obligations.ShiftIgnoresItsYNibble : Prop :=
  ∀ x y : Nibble, decodeWord (xynWord 0x8#4 x y 0x6#4) = .ok (.shr x) ∧ decodeWord (xynWord 0x8#4 x y 0xE#4) = .ok (.shl x) ∧
    yField (encode (.shr x)) = 0 ∧ yField (encode (.shl x)) = 0

/-- R172 (a free draw, the spec's decision D22; log 3), for every free byte and every value of the draw counter: the
result is the drawn byte under the mask, no bit set that `kk` has clear, and the draw is used up. -/
def Obligations.RandomByteUnderItsMask : Prop :=
  ∀ (x : Nibble) (kk : Byte) (s : State), ∃ t, exec (.rnd x kk) s = .next t ∧
    t.getV x = Config.freeByte s.draws &&& kk ∧ (∀ j, kk.getLsbD j = false → (t.getV x).getLsbD j = false) ∧
    t.draws = s.draws + 1 ∧ t.pc = s.pc + 2 ∧ Frame { regs := [x], draws := true } s t

/-! ### Display (43_display.md) -/

/-- R192: every cell off, DIRTY set whatever the display held, and nothing else changed. -/
def Obligations.ClearScreenTurnsEveryCellOff : Prop :=
  ∀ s : State, ∃ t, exec .cls s = .next t ∧ (∀ px py, t.disp.pixel px py = false) ∧ t.dirty = true ∧
    t.pc = s.pc + 2 ∧ Frame { disp := true, dirty := true } s t

/-- R193 (with the spec's decisions D16 for the bit order and D17 for the error and `n = 0`): when the sprite's bytes
lie in memory a cell changes exactly when a 1 bit of the sprite falls on it, DIRTY is set, and nothing else but VF
changes; when they do not, `OutOfBoundsLoad`. -/
def Obligations.DrawXorsTheWrappedSprite : Prop :=
  ∀ (x y n : Nibble) (s : State),
    (n.toNat = 0 ∨ s.i.toNat + n.toNat - 1 < 4096 → ∃ t, exec (.drw x y n) s = .next t ∧
      (∀ px py, t.disp.pixel px py ≠ s.disp.pixel px py ↔ ∃ r < n.toNat, ∃ c < 8,
        px.val = ((s.getV x).toNat + c) % 64 ∧ py.val = ((s.getV y).toNat + r) % 32 ∧
        (s.readByte (s.i.toNat + r)).getLsbD (7 - c) = true) ∧
      t.dirty = true ∧ t.pc = s.pc + 2 ∧ Frame { regs := [vf], disp := true, dirty := true } s t) ∧
    (1 ≤ n.toNat → 4096 ≤ s.i.toNat + n.toNat - 1 → exec (.drw x y n) s = .fault .outOfBoundsLoad)

/-- R193, R194 (the parameter DRW_COLLISION_GATED, D14, and VF = 0 without a collision, D15): VF is 1 when some cell of
the sprite's footprint was lit before the draw, under a 1 bit of the sprite if the parameter is true, else 0. -/
def Obligations.DrawSetsTheCollisionFlag : Prop :=
  ∀ (x y n : Nibble) (s t : State), exec (.drw x y n) s = .next t →
    (t.getV vf = 0 ∨ t.getV vf = 1) ∧
    (t.getV vf = 1 ↔ ∃ r < n.toNat, ∃ c < 8,
      s.disp.pixel (wrapColumn (s.getV x) c) (wrapRow (s.getV y) r) = true ∧
      (s.config.drwCollisionGated = true → (s.readByte (s.i.toNat + r)).getLsbD (7 - c) = true))

/-- R195 (a), which the spec derives: two identical draws in a row leave the display as it was before the first. -/
def Obligations.DrawingTwiceRestoresTheDisplay : Prop :=
  ∀ (x y n : Nibble) (s t u v : State), exec (.drw x y n) s = .next t →
    u.disp = t.disp → u.getV x = s.getV x → u.getV y = s.getV y → u.i = s.i →
    (∀ r < n.toNat, u.readByte (s.i.toNat + r) = s.readByte (s.i.toNat + r)) →
    exec (.drw x y n) u = .next v → v.disp = s.disp

/-- R195 (b) and (c), which the spec derives: a draw onto an all-off footprint never collides, and a sprite with a 1 bit
whose every 1 bit falls on a lit cell does, under both readings of the collision condition. -/
def Obligations.CollisionUnderBothReadings : Prop :=
  ∀ (x y n : Nibble) (s t : State), exec (.drw x y n) s = .next t →
    let lit := fun r c => s.disp.pixel (wrapColumn (s.getV x) c) (wrapRow (s.getV y) r)
    let bit := fun r c => (s.readByte (s.i.toNat + r)).getLsbD (7 - c)
    ((∀ r < n.toNat, ∀ c < 8, lit r c = false) → t.getV vf = 0) ∧
    ((∃ r < n.toNat, ∃ c < 8, bit r c = true) → (∀ r < n.toNat, ∀ c < 8, bit r c = true → lit r c = true) →
      t.getV vf = 1)

/-! ### Keypad (44_keypad.md) -/

/-- R214, R215: the key skips consult the key of the register's low nibble, add 4 or 2 to `pc`, and change nothing
else. -/
def Obligations.KeySkipsTestTheLowNibbleKey : Prop :=
  ∀ (x : Nibble) (s : State),
    let k : Nibble := BitVec.ofNat 4 ((s.getV x).toNat % 16)
    (∃ t, exec (.skp x) s = .next t ∧ Frame {} s t ∧ t.pc = if s.keyDown k = true then s.pc + 4 else s.pc + 2) ∧
    (∃ t, exec (.sknp x) s = .next t ∧ Frame {} s t ∧ t.pc = if s.keyDown k = true then s.pc + 2 else s.pc + 4)

/-- R216: idle, the instruction arms and `pc` stays; armed, nothing changes; with a key captured, its number goes to
`V[x]`, the state is idle and `pc` advances. -/
def Obligations.KeyWaitArmsWaitsAndConsumes : Prop :=
  ∀ (x : Nibble) (s : State),
    (s.kw = .idle → ∃ t, exec (.ldVxK x) s = .next t ∧ t.kw = .armed ∧ t.pc = s.pc ∧ Frame { kw := true } s t) ∧
    (s.kw = .armed → exec (.ldVxK x) s = .next s) ∧
    (∀ k, s.kw = .captured k → ∃ t, exec (.ldVxK x) s = .next t ∧ (t.getV x).toNat = k.toNat ∧ t.kw = .idle ∧
      t.pc = s.pc + 2 ∧ Frame { regs := [x], kw := true } s t)

/-- R212 (that a repeated key-down is no edge is the spec's decision D19): KEY sets its own flag, captures an up-to-down
edge while armed and nothing else, changes nothing else and returns nothing. -/
def Obligations.KeySetsItsFlagAndCapturesAnEdge : Prop :=
  ∀ (k : Nibble) (pressed : Bool) (s : State), ∃ t,
    transact (.key k pressed) { config := s.config, machine := some s } =
      some (.silent, { config := s.config, machine := some t }) ∧
    (∀ j, t.keyDown j = if j = k then pressed else s.keyDown j) ∧
    t.kw = (if s.kw = .armed ∧ s.keyDown k = false ∧ pressed = true then .captured k else s.kw) ∧
    t = { s with keys := t.keys, kw := t.kw }

/-- R210, R216, and the test of the source in R216's standing: an `LD Vx,K` re-executes, `pc` unchanged, for any number
of STEPs until a key goes down; exactly one subsequent STEP then stores the key's number and advances `pc`. -/
def Obligations.KeyWaitCompletesAfterOneEdge : Prop :=
  ∀ (x k : Nibble) (n : Nat) (s : State), s.fetchInstr = .ok (.ldVxK x) → s.kw = .idle → s.keyDown k = false →
    (∃ w, runSchedule (List.replicate (n + 1) .step) { config := s.config, machine := some s } =
      some (List.replicate (n + 1) .ok, { config := s.config, machine := some w }) ∧ w.kw = .armed ∧ w.pc = s.pc) ∧
    ∃ t, runSchedule (List.replicate (n + 1) .step ++ [.key k true, .step])
        { config := s.config, machine := some s } =
      some (List.replicate (n + 1) .ok ++ [.silent, .ok], { config := s.config, machine := some t }) ∧
      (t.getV x).toNat = k.toNat ∧ t.kw = .idle ∧ t.pc = s.pc + 2 ∧ t.keyDown k = true

/-! ### Timers, index register, memory (45_timer_index_memory.md, 60_exceptions.md) -/

/-- R231 to R233: the three timer moves copy their source and change nothing else. -/
def Obligations.TimerMovesCopyTheirSource : Prop :=
  ∀ (x : Nibble) (s : State),
    (∃ t, exec (.ldVxDt x) s = .next t ∧ t.getV x = s.dt ∧ t.pc = s.pc + 2 ∧ Frame { regs := [x] } s t) ∧
    (∃ t, exec (.ldDtVx x) s = .next t ∧ t.dt = s.getV x ∧ t.pc = s.pc + 2 ∧ Frame { dt := true } s t) ∧
    (∃ t, exec (.ldStVx x) s = .next t ∧ t.st = s.getV x ∧ t.pc = s.pc + 2 ∧ Frame { st := true } s t)

/-- R275: `n` TICKs lower both timers by `n`, clamped at 0, and change nothing else. -/
def Obligations.TicksCountDownToZero : Prop :=
  ∀ (n : Nat) (s : State), ∃ t,
    runSchedule (List.replicate n .tick) { config := s.config, machine := some s } =
      some (List.replicate n .silent, { config := s.config, machine := some t }) ∧
    t.dt.toNat = s.dt.toNat - n ∧ t.st.toNat = s.st.toNat - n ∧ t.pc = s.pc ∧ Frame { dt := true, st := true } s t

/-- R234: `I` becomes `nnn`, its high four bits 0. -/
def Obligations.LoadIndexZeroExtends : Prop :=
  ∀ (nnn : Addr12) (s : State), ∃ t, exec (.ldI nnn) s = .next t ∧ t.i.toNat = nnn.toNat ∧ t.pc = s.pc + 2 ∧
    Frame { i := true } s t

/-- R235, R236 (the 16-bit sum without flag is the spec's decision D10, the unmasked product D11): `ADD I,Vx` adds
modulo 65536 and `LD F,Vx` sets `I` to 5 times the whole byte; VF is unchanged. -/
def Obligations.IndexSumAndGlyphAddress : Prop :=
  ∀ (x : Nibble) (s : State),
    (∃ t, exec (.addI x) s = .next t ∧ t.i.toNat = (s.i.toNat + (s.getV x).toNat) % 65536 ∧ t.pc = s.pc + 2 ∧
      Frame { i := true } s t) ∧
    (∃ t, exec (.ldF x) s = .next t ∧ t.i.toNat = 5 * (s.getV x).toNat ∧ t.pc = s.pc + 2 ∧ Frame { i := true } s t)

/-- R237: below the bound the hundreds, tens and ones digits go to `I`, `I+1`, `I+2` and nothing else changes; at
`I + 2 >= 4096` `OutOfBoundsStore`. Memory in its canonical form is part of the invariant (log 5). -/
def Obligations.BcdStoresTheThreeDigits : Prop :=
  ∀ (x : Nibble) (s : State), Memory.wf s.config s.mem = true →
    (s.i.toNat + 2 < 4096 → ∃ t, exec (.ldB x) s = .next t ∧
      (t.readByte s.i.toNat).toNat = (s.getV x).toNat / 100 ∧
      (t.readByte (s.i.toNat + 1)).toNat = (s.getV x).toNat / 10 % 10 ∧
      (t.readByte (s.i.toNat + 2)).toNat = (s.getV x).toNat % 10 ∧
      t.pc = s.pc + 2 ∧ Frame { bytes := s.addressesFromI 3 } s t) ∧
    (4096 ≤ s.i.toNat + 2 → exec (.ldB x) s = .fault .outOfBoundsStore)

/-- R238 (`I` unchanged is the spec's decision D8, all or nothing D3, D18): `V[0..x]` go to `MEM[I..I+x]` and nothing
else changes; when `I + x >= 4096`, `OutOfBoundsStore`. Memory in its canonical form is part of the invariant (log 5). -/
def Obligations.BlockStoreCopiesTheRegisters : Prop :=
  ∀ (x : Nibble) (s : State), Memory.wf s.config s.mem = true →
    (s.i.toNat + x.toNat < 4096 → ∃ t, exec (.ldMemVx x) s = .next t ∧
      (∀ r : Nibble, r.toNat ≤ x.toNat → t.readByte (s.i.toNat + r.toNat) = s.getV r) ∧
      t.pc = s.pc + 2 ∧ Frame { bytes := s.addressesFromI (x.toNat + 1) } s t) ∧
    (4096 ≤ s.i.toNat + x.toNat → exec (.ldMemVx x) s = .fault .outOfBoundsStore)

/-- R239 (`I` unchanged is the spec's decision D8, all or nothing D3, D18): `MEM[I..I+x]` go to `V[0..x]` and nothing
else changes; when `I + x >= 4096`, `OutOfBoundsLoad`. -/
def Obligations.BlockLoadFillsTheRegisters : Prop :=
  ∀ (x : Nibble) (s : State),
    (s.i.toNat + x.toNat < 4096 → ∃ t, exec (.ldVxMem x) s = .next t ∧
      (∀ r : Nibble, t.getV r = if r.toNat ≤ x.toNat then s.readByte (s.i.toNat + r.toNat) else s.getV r) ∧
      t.pc = s.pc + 2 ∧ Frame { regs := registersUpTo x } s t) ∧
    (4096 ≤ s.i.toNat + x.toNat → exec (.ldVxMem x) s = .fault .outOfBoundsLoad)

/-- R238, R239 together: registers stored and loaded again from the same `I` have the stored values, whatever they
held in between. -/
def Obligations.StoredBlockLoadsBack : Prop :=
  ∀ (x : Nibble) (s t u v : State), Memory.wf s.config s.mem = true → exec (.ldMemVx x) s = .next t →
    u.i = s.i → (∀ a, u.readByte a = t.readByte a) → exec (.ldVxMem x) u = .next v →
    ∀ r : Nibble, r.toNat ≤ x.toNat → v.getV r = s.getV r

/-- 20_memory.md R73, which the spec derives: bytes that `LD [I],Vx` stored where the next STEP fetches are the
instruction it fetches, big-endian, with nothing in between. -/
def Obligations.StoreIsSeenByTheNextFetch : Prop :=
  ∀ (x r : Nibble) (s t : State), Memory.wf s.config s.mem = true → exec (.ldMemVx x) s = .next t →
    t.pc.toNat = s.i.toNat + r.toNat → r.toNat < x.toNat →
    t.fetchWord = .ok (wordOfBytes (s.getV r) (s.getV (r + 1)))

/-! ### Reset, queries and the host (70_reset_and_hazards.md, 43_display.md) -/

/-- R300: an image longer than 3584 bytes is a `LoadError`; any other gives the font at 0 to 79, the image at 512 byte
for byte, every other cell and register 0 and `pc = 512`. (DISP, DIRTY, KEYS and KW are the spec's decision D2.) -/
def Obligations.ResetLoadsTheImage : Prop :=
  ∀ (c : Config) (image : List Byte),
    (3584 < image.length → State.load c image = .fault .loadError) ∧
    (image.length ≤ 3584 → ∃ t, State.load c image = .next t ∧
      (∀ a < 4096, t.readByte a = if h : 512 ≤ a ∧ a - 512 < image.length then image[a - 512]
        else if h : a < 80 then c.font[a] else 0) ∧
      (∀ r, t.getV r = 0) ∧ t.i = 0 ∧ t.pc = 512 ∧ t.dt = 0 ∧ t.st = 0 ∧ t.sp = 0 ∧ (∀ j : Fin 16, t.stack[j] = 0) ∧
      (∀ px py, t.disp.pixel px py = false) ∧ t.dirty = false ∧ (∀ k, t.keyDown k = false) ∧ t.kw = .idle ∧ t.config = c)

/-- The reset state of the host's interface is what RESET with the empty image leaves, for the spec's default
configuration (00_scope.md R6; log 2, log 20). -/
def Obligations.ResetStateIsTheEmptyImage : Prop := State.load Config.standard [] = .next State.reset

/-- R301 (the spec's decision D30; log 21): RESET replaces all state of the spec, so that its outcome is that of the
image alone, whatever the old machine, errors included (only the model's own draw counter goes on, log 3); after `LoadError`
there is no machine, and then no transaction but RESET is a move of the host. What the record of the first error holds
after a RESET is the model's choice (log 26). -/
def Obligations.ResetReplacesTheMachine : Prop :=
  ∀ (image : List Byte) (sys : System),
    (∀ t, State.load sys.config image = .next t → ∃ sys', transact (.reset image) sys = some (.ok, sys') ∧
      sys'.config = sys.config ∧ sys'.firstError = none ∧ ∃ u, sys'.machine = some u ∧ u = { t with draws := u.draws } ∧
      ∀ s, sys.machine = some s → u.draws = s.draws) ∧
    (∀ e, State.load sys.config image = .fault e → ∃ sys', transact (.reset image) sys = some (.err e, sys') ∧
      sys'.config = sys.config ∧ sys'.firstError = some e ∧ sys'.machine = none ∧
      ∀ t, (∀ image', t ≠ .reset image') → transact t sys' = none)

/-- R309 item 3 (the spec's decision D31): from a settled state a STEP changes nothing but `DIRTY <- 0`, so the state
stays settled. -/
def Obligations.SettledMachineStaysSettled : Prop :=
  ∀ s : State, s.Settled → step s = .next { s with dirty := false } ∧ s.clearDirty.Settled

/-- 43_display.md R196: `DIRTY?` returns DIRTY and changes nothing; asked again it answers the same. `PIXEL?` likewise
returns its cell (R197, whose range is in the types, decision D26). -/
def Obligations.QueriesReadAndChangeNothing : Prop :=
  ∀ (s : State) (px : Fin 64) (py : Fin 32),
    let sys : System := { config := s.config, machine := some s }
    transact .dirtyQuery sys = some (.bit s.dirty, sys) ∧
    transact (.pixelQuery px py) sys = some (.bit (s.disp.pixel px py), sys)

/-- 60_exceptions.md R261: on an existing machine, faulted or not, every schedule of TICKs, KEYs and queries is accepted and
free of errors, and records none; so it is a safe run when no error was recorded before (log 26). -/
def Obligations.HostMovesNeverFail : Prop :=
  ∀ (schedule : List Transaction) (sys : System), sys.machine ≠ none →
    (∀ t ∈ schedule, t ≠ .step ∧ ∀ image, t ≠ .reset image) →
    (∃ responses sys', runSchedule schedule sys = some (responses, sys') ∧ (∀ e, Response.err e ∉ responses) ∧
      sys'.firstError = sys.firstError) ∧
    (sys.firstError = none → SafeRun schedule sys)

/-- 60_exceptions.md R263 and 93_implementation_defined.md U2 (that the record is a field of the system is the model's
choice, log 26): over any schedule without RESET the record is the first error of the run, an earlier one staying; and a
faulted system has no safe run and no end state until a RESET. -/
def Obligations.FirstErrorIsStickyUntilReset : Prop :=
  ∀ (schedule : List Transaction) (responses : List Response) (sys sys' : System),
    (∀ image, Transaction.reset image ∉ schedule) → runSchedule schedule sys = some (responses, sys') →
    sys'.firstError = sys.firstError.or (responses.findSome? Response.error) ∧
    ∀ e, sys.firstError = some e →
      sys'.firstError = some e ∧ ¬ SafeRun schedule sys ∧ ∀ s, ¬ EndsIn schedule sys s
end

