-- ==== Sys2Proof/Laws/State.lean ====
section
/-! SUPPORT. One lemma per field per update, true by rfl, so that no later proof unfolds a record update. -/

namespace Sys2Proof.Machine

variable (s : State)

/-! ### `State.setV` -/

@[simp] theorem State.setV_v (x : Nibble) (b : Byte) : (s.setV x b).v = s.v.set x.toNat b x.isLt := rfl
@[simp] theorem State.setV_i (x : Nibble) (b : Byte) : (s.setV x b).i = s.i := rfl
@[simp] theorem State.setV_pc (x : Nibble) (b : Byte) : (s.setV x b).pc = s.pc := rfl
@[simp] theorem State.setV_dt (x : Nibble) (b : Byte) : (s.setV x b).dt = s.dt := rfl
@[simp] theorem State.setV_st (x : Nibble) (b : Byte) : (s.setV x b).st = s.st := rfl
@[simp] theorem State.setV_sp (x : Nibble) (b : Byte) : (s.setV x b).sp = s.sp := rfl
@[simp] theorem State.setV_stack (x : Nibble) (b : Byte) : (s.setV x b).stack = s.stack := rfl
@[simp] theorem State.setV_disp (x : Nibble) (b : Byte) : (s.setV x b).disp = s.disp := rfl
@[simp] theorem State.setV_dirty (x : Nibble) (b : Byte) : (s.setV x b).dirty = s.dirty := rfl
@[simp] theorem State.setV_keys (x : Nibble) (b : Byte) : (s.setV x b).keys = s.keys := rfl
@[simp] theorem State.setV_kw (x : Nibble) (b : Byte) : (s.setV x b).kw = s.kw := rfl
@[simp] theorem State.setV_mem (x : Nibble) (b : Byte) : (s.setV x b).mem = s.mem := rfl
@[simp] theorem State.setV_draws (x : Nibble) (b : Byte) : (s.setV x b).draws = s.draws := rfl
@[simp] theorem State.setV_config (x : Nibble) (b : Byte) : (s.setV x b).config = s.config := rfl
@[simp] theorem State.readByte_setV (x : Nibble) (b : Byte) (n : Nat) : (s.setV x b).readByte n = s.readByte n := rfl
@[simp] theorem State.keyDown_setV (x : Nibble) (b : Byte) (j : Nibble) : (s.setV x b).keyDown j = s.keyDown j := rfl

/-! ### `State.setFlagThenV` -/

@[simp] theorem State.setFlagThenV_v (f : Byte) (x : Nibble) (b : Byte) : (s.setFlagThenV f x b).v = ((s.setV vf f).setV x b).v := rfl
@[simp] theorem State.setFlagThenV_i (f : Byte) (x : Nibble) (b : Byte) : (s.setFlagThenV f x b).i = s.i := rfl
@[simp] theorem State.setFlagThenV_pc (f : Byte) (x : Nibble) (b : Byte) : (s.setFlagThenV f x b).pc = s.pc := rfl
@[simp] theorem State.setFlagThenV_dt (f : Byte) (x : Nibble) (b : Byte) : (s.setFlagThenV f x b).dt = s.dt := rfl
@[simp] theorem State.setFlagThenV_st (f : Byte) (x : Nibble) (b : Byte) : (s.setFlagThenV f x b).st = s.st := rfl
@[simp] theorem State.setFlagThenV_sp (f : Byte) (x : Nibble) (b : Byte) : (s.setFlagThenV f x b).sp = s.sp := rfl
@[simp] theorem State.setFlagThenV_stack (f : Byte) (x : Nibble) (b : Byte) : (s.setFlagThenV f x b).stack = s.stack := rfl
@[simp] theorem State.setFlagThenV_disp (f : Byte) (x : Nibble) (b : Byte) : (s.setFlagThenV f x b).disp = s.disp := rfl
@[simp] theorem State.setFlagThenV_dirty (f : Byte) (x : Nibble) (b : Byte) : (s.setFlagThenV f x b).dirty = s.dirty := rfl
@[simp] theorem State.setFlagThenV_keys (f : Byte) (x : Nibble) (b : Byte) : (s.setFlagThenV f x b).keys = s.keys := rfl
@[simp] theorem State.setFlagThenV_kw (f : Byte) (x : Nibble) (b : Byte) : (s.setFlagThenV f x b).kw = s.kw := rfl
@[simp] theorem State.setFlagThenV_mem (f : Byte) (x : Nibble) (b : Byte) : (s.setFlagThenV f x b).mem = s.mem := rfl
@[simp] theorem State.setFlagThenV_draws (f : Byte) (x : Nibble) (b : Byte) : (s.setFlagThenV f x b).draws = s.draws := rfl
@[simp] theorem State.setFlagThenV_config (f : Byte) (x : Nibble) (b : Byte) : (s.setFlagThenV f x b).config = s.config := rfl
@[simp] theorem State.readByte_setFlagThenV (f : Byte) (x : Nibble) (b : Byte) (n : Nat) : (s.setFlagThenV f x b).readByte n = s.readByte n := rfl
@[simp] theorem State.keyDown_setFlagThenV (f : Byte) (x : Nibble) (b : Byte) (j : Nibble) : (s.setFlagThenV f x b).keyDown j = s.keyDown j := rfl

/-! ### `State.setI` -/

@[simp] theorem State.setI_v (a : Word) : (s.setI a).v = s.v := rfl
@[simp] theorem State.setI_i (a : Word) : (s.setI a).i = a := rfl
@[simp] theorem State.setI_pc (a : Word) : (s.setI a).pc = s.pc := rfl
@[simp] theorem State.setI_dt (a : Word) : (s.setI a).dt = s.dt := rfl
@[simp] theorem State.setI_st (a : Word) : (s.setI a).st = s.st := rfl
@[simp] theorem State.setI_sp (a : Word) : (s.setI a).sp = s.sp := rfl
@[simp] theorem State.setI_stack (a : Word) : (s.setI a).stack = s.stack := rfl
@[simp] theorem State.setI_disp (a : Word) : (s.setI a).disp = s.disp := rfl
@[simp] theorem State.setI_dirty (a : Word) : (s.setI a).dirty = s.dirty := rfl
@[simp] theorem State.setI_keys (a : Word) : (s.setI a).keys = s.keys := rfl
@[simp] theorem State.setI_kw (a : Word) : (s.setI a).kw = s.kw := rfl
@[simp] theorem State.setI_mem (a : Word) : (s.setI a).mem = s.mem := rfl
@[simp] theorem State.setI_draws (a : Word) : (s.setI a).draws = s.draws := rfl
@[simp] theorem State.setI_config (a : Word) : (s.setI a).config = s.config := rfl
@[simp] theorem State.getV_setI (a : Word) (r : Nibble) : (s.setI a).getV r = s.getV r := rfl
@[simp] theorem State.readByte_setI (a : Word) (n : Nat) : (s.setI a).readByte n = s.readByte n := rfl
@[simp] theorem State.keyDown_setI (a : Word) (j : Nibble) : (s.setI a).keyDown j = s.keyDown j := rfl

/-! ### `State.setDt` -/

@[simp] theorem State.setDt_v (b : Byte) : (s.setDt b).v = s.v := rfl
@[simp] theorem State.setDt_i (b : Byte) : (s.setDt b).i = s.i := rfl
@[simp] theorem State.setDt_pc (b : Byte) : (s.setDt b).pc = s.pc := rfl
@[simp] theorem State.setDt_dt (b : Byte) : (s.setDt b).dt = b := rfl
@[simp] theorem State.setDt_st (b : Byte) : (s.setDt b).st = s.st := rfl
@[simp] theorem State.setDt_sp (b : Byte) : (s.setDt b).sp = s.sp := rfl
@[simp] theorem State.setDt_stack (b : Byte) : (s.setDt b).stack = s.stack := rfl
@[simp] theorem State.setDt_disp (b : Byte) : (s.setDt b).disp = s.disp := rfl
@[simp] theorem State.setDt_dirty (b : Byte) : (s.setDt b).dirty = s.dirty := rfl
@[simp] theorem State.setDt_keys (b : Byte) : (s.setDt b).keys = s.keys := rfl
@[simp] theorem State.setDt_kw (b : Byte) : (s.setDt b).kw = s.kw := rfl
@[simp] theorem State.setDt_mem (b : Byte) : (s.setDt b).mem = s.mem := rfl
@[simp] theorem State.setDt_draws (b : Byte) : (s.setDt b).draws = s.draws := rfl
@[simp] theorem State.setDt_config (b : Byte) : (s.setDt b).config = s.config := rfl
@[simp] theorem State.getV_setDt (b : Byte) (r : Nibble) : (s.setDt b).getV r = s.getV r := rfl
@[simp] theorem State.readByte_setDt (b : Byte) (n : Nat) : (s.setDt b).readByte n = s.readByte n := rfl
@[simp] theorem State.keyDown_setDt (b : Byte) (j : Nibble) : (s.setDt b).keyDown j = s.keyDown j := rfl

/-! ### `State.setSt` -/

@[simp] theorem State.setSt_v (b : Byte) : (s.setSt b).v = s.v := rfl
@[simp] theorem State.setSt_i (b : Byte) : (s.setSt b).i = s.i := rfl
@[simp] theorem State.setSt_pc (b : Byte) : (s.setSt b).pc = s.pc := rfl
@[simp] theorem State.setSt_dt (b : Byte) : (s.setSt b).dt = s.dt := rfl
@[simp] theorem State.setSt_st (b : Byte) : (s.setSt b).st = b := rfl
@[simp] theorem State.setSt_sp (b : Byte) : (s.setSt b).sp = s.sp := rfl
@[simp] theorem State.setSt_stack (b : Byte) : (s.setSt b).stack = s.stack := rfl
@[simp] theorem State.setSt_disp (b : Byte) : (s.setSt b).disp = s.disp := rfl
@[simp] theorem State.setSt_dirty (b : Byte) : (s.setSt b).dirty = s.dirty := rfl
@[simp] theorem State.setSt_keys (b : Byte) : (s.setSt b).keys = s.keys := rfl
@[simp] theorem State.setSt_kw (b : Byte) : (s.setSt b).kw = s.kw := rfl
@[simp] theorem State.setSt_mem (b : Byte) : (s.setSt b).mem = s.mem := rfl
@[simp] theorem State.setSt_draws (b : Byte) : (s.setSt b).draws = s.draws := rfl
@[simp] theorem State.setSt_config (b : Byte) : (s.setSt b).config = s.config := rfl
@[simp] theorem State.getV_setSt (b : Byte) (r : Nibble) : (s.setSt b).getV r = s.getV r := rfl
@[simp] theorem State.readByte_setSt (b : Byte) (n : Nat) : (s.setSt b).readByte n = s.readByte n := rfl
@[simp] theorem State.keyDown_setSt (b : Byte) (j : Nibble) : (s.setSt b).keyDown j = s.keyDown j := rfl

/-! ### `State.setKw` -/

@[simp] theorem State.setKw_v (k : KeyWait) : (s.setKw k).v = s.v := rfl
@[simp] theorem State.setKw_i (k : KeyWait) : (s.setKw k).i = s.i := rfl
@[simp] theorem State.setKw_pc (k : KeyWait) : (s.setKw k).pc = s.pc := rfl
@[simp] theorem State.setKw_dt (k : KeyWait) : (s.setKw k).dt = s.dt := rfl
@[simp] theorem State.setKw_st (k : KeyWait) : (s.setKw k).st = s.st := rfl
@[simp] theorem State.setKw_sp (k : KeyWait) : (s.setKw k).sp = s.sp := rfl
@[simp] theorem State.setKw_stack (k : KeyWait) : (s.setKw k).stack = s.stack := rfl
@[simp] theorem State.setKw_disp (k : KeyWait) : (s.setKw k).disp = s.disp := rfl
@[simp] theorem State.setKw_dirty (k : KeyWait) : (s.setKw k).dirty = s.dirty := rfl
@[simp] theorem State.setKw_keys (k : KeyWait) : (s.setKw k).keys = s.keys := rfl
@[simp] theorem State.setKw_kw (k : KeyWait) : (s.setKw k).kw = k := rfl
@[simp] theorem State.setKw_mem (k : KeyWait) : (s.setKw k).mem = s.mem := rfl
@[simp] theorem State.setKw_draws (k : KeyWait) : (s.setKw k).draws = s.draws := rfl
@[simp] theorem State.setKw_config (k : KeyWait) : (s.setKw k).config = s.config := rfl
@[simp] theorem State.getV_setKw (k : KeyWait) (r : Nibble) : (s.setKw k).getV r = s.getV r := rfl
@[simp] theorem State.readByte_setKw (k : KeyWait) (n : Nat) : (s.setKw k).readByte n = s.readByte n := rfl
@[simp] theorem State.keyDown_setKw (k : KeyWait) (j : Nibble) : (s.setKw k).keyDown j = s.keyDown j := rfl

/-! ### `State.setDisp` -/

@[simp] theorem State.setDisp_v (d : Display) : (s.setDisp d).v = s.v := rfl
@[simp] theorem State.setDisp_i (d : Display) : (s.setDisp d).i = s.i := rfl
@[simp] theorem State.setDisp_pc (d : Display) : (s.setDisp d).pc = s.pc := rfl
@[simp] theorem State.setDisp_dt (d : Display) : (s.setDisp d).dt = s.dt := rfl
@[simp] theorem State.setDisp_st (d : Display) : (s.setDisp d).st = s.st := rfl
@[simp] theorem State.setDisp_sp (d : Display) : (s.setDisp d).sp = s.sp := rfl
@[simp] theorem State.setDisp_stack (d : Display) : (s.setDisp d).stack = s.stack := rfl
@[simp] theorem State.setDisp_disp (d : Display) : (s.setDisp d).disp = d := rfl
@[simp] theorem State.setDisp_dirty (d : Display) : (s.setDisp d).dirty = s.dirty := rfl
@[simp] theorem State.setDisp_keys (d : Display) : (s.setDisp d).keys = s.keys := rfl
@[simp] theorem State.setDisp_kw (d : Display) : (s.setDisp d).kw = s.kw := rfl
@[simp] theorem State.setDisp_mem (d : Display) : (s.setDisp d).mem = s.mem := rfl
@[simp] theorem State.setDisp_draws (d : Display) : (s.setDisp d).draws = s.draws := rfl
@[simp] theorem State.setDisp_config (d : Display) : (s.setDisp d).config = s.config := rfl
@[simp] theorem State.getV_setDisp (d : Display) (r : Nibble) : (s.setDisp d).getV r = s.getV r := rfl
@[simp] theorem State.readByte_setDisp (d : Display) (n : Nat) : (s.setDisp d).readByte n = s.readByte n := rfl
@[simp] theorem State.keyDown_setDisp (d : Display) (j : Nibble) : (s.setDisp d).keyDown j = s.keyDown j := rfl

/-! ### `State.setKey` -/

@[simp] theorem State.setKey_v (k : Nibble) (p : Bool) : (s.setKey k p).v = s.v := rfl
@[simp] theorem State.setKey_i (k : Nibble) (p : Bool) : (s.setKey k p).i = s.i := rfl
@[simp] theorem State.setKey_pc (k : Nibble) (p : Bool) : (s.setKey k p).pc = s.pc := rfl
@[simp] theorem State.setKey_dt (k : Nibble) (p : Bool) : (s.setKey k p).dt = s.dt := rfl
@[simp] theorem State.setKey_st (k : Nibble) (p : Bool) : (s.setKey k p).st = s.st := rfl
@[simp] theorem State.setKey_sp (k : Nibble) (p : Bool) : (s.setKey k p).sp = s.sp := rfl
@[simp] theorem State.setKey_stack (k : Nibble) (p : Bool) : (s.setKey k p).stack = s.stack := rfl
@[simp] theorem State.setKey_disp (k : Nibble) (p : Bool) : (s.setKey k p).disp = s.disp := rfl
@[simp] theorem State.setKey_dirty (k : Nibble) (p : Bool) : (s.setKey k p).dirty = s.dirty := rfl
@[simp] theorem State.setKey_keys (k : Nibble) (p : Bool) : (s.setKey k p).keys = s.keys.set k.toNat p k.isLt := rfl
@[simp] theorem State.setKey_kw (k : Nibble) (p : Bool) : (s.setKey k p).kw = s.kw := rfl
@[simp] theorem State.setKey_mem (k : Nibble) (p : Bool) : (s.setKey k p).mem = s.mem := rfl
@[simp] theorem State.setKey_draws (k : Nibble) (p : Bool) : (s.setKey k p).draws = s.draws := rfl
@[simp] theorem State.setKey_config (k : Nibble) (p : Bool) : (s.setKey k p).config = s.config := rfl
@[simp] theorem State.getV_setKey (k : Nibble) (p : Bool) (r : Nibble) : (s.setKey k p).getV r = s.getV r := rfl
@[simp] theorem State.readByte_setKey (k : Nibble) (p : Bool) (n : Nat) : (s.setKey k p).readByte n = s.readByte n := rfl

/-! ### `State.countDraw` -/

@[simp] theorem State.countDraw_v : (s.countDraw).v = s.v := rfl
@[simp] theorem State.countDraw_i : (s.countDraw).i = s.i := rfl
@[simp] theorem State.countDraw_pc : (s.countDraw).pc = s.pc := rfl
@[simp] theorem State.countDraw_dt : (s.countDraw).dt = s.dt := rfl
@[simp] theorem State.countDraw_st : (s.countDraw).st = s.st := rfl
@[simp] theorem State.countDraw_sp : (s.countDraw).sp = s.sp := rfl
@[simp] theorem State.countDraw_stack : (s.countDraw).stack = s.stack := rfl
@[simp] theorem State.countDraw_disp : (s.countDraw).disp = s.disp := rfl
@[simp] theorem State.countDraw_dirty : (s.countDraw).dirty = s.dirty := rfl
@[simp] theorem State.countDraw_keys : (s.countDraw).keys = s.keys := rfl
@[simp] theorem State.countDraw_kw : (s.countDraw).kw = s.kw := rfl
@[simp] theorem State.countDraw_mem : (s.countDraw).mem = s.mem := rfl
@[simp] theorem State.countDraw_draws : (s.countDraw).draws = s.draws + 1 := rfl
@[simp] theorem State.countDraw_config : (s.countDraw).config = s.config := rfl
@[simp] theorem State.getV_countDraw (r : Nibble) : (s.countDraw).getV r = s.getV r := rfl
@[simp] theorem State.readByte_countDraw (n : Nat) : (s.countDraw).readByte n = s.readByte n := rfl
@[simp] theorem State.keyDown_countDraw (j : Nibble) : (s.countDraw).keyDown j = s.keyDown j := rfl

/-! ### `State.jump` -/

@[simp] theorem State.jump_v (a : Word) : (s.jump a).v = s.v := rfl
@[simp] theorem State.jump_i (a : Word) : (s.jump a).i = s.i := rfl
@[simp] theorem State.jump_pc (a : Word) : (s.jump a).pc = a := rfl
@[simp] theorem State.jump_dt (a : Word) : (s.jump a).dt = s.dt := rfl
@[simp] theorem State.jump_st (a : Word) : (s.jump a).st = s.st := rfl
@[simp] theorem State.jump_sp (a : Word) : (s.jump a).sp = s.sp := rfl
@[simp] theorem State.jump_stack (a : Word) : (s.jump a).stack = s.stack := rfl
@[simp] theorem State.jump_disp (a : Word) : (s.jump a).disp = s.disp := rfl
@[simp] theorem State.jump_dirty (a : Word) : (s.jump a).dirty = s.dirty := rfl
@[simp] theorem State.jump_keys (a : Word) : (s.jump a).keys = s.keys := rfl
@[simp] theorem State.jump_kw (a : Word) : (s.jump a).kw = s.kw := rfl
@[simp] theorem State.jump_mem (a : Word) : (s.jump a).mem = s.mem := rfl
@[simp] theorem State.jump_draws (a : Word) : (s.jump a).draws = s.draws := rfl
@[simp] theorem State.jump_config (a : Word) : (s.jump a).config = s.config := rfl
@[simp] theorem State.getV_jump (a : Word) (r : Nibble) : (s.jump a).getV r = s.getV r := rfl
@[simp] theorem State.readByte_jump (a : Word) (n : Nat) : (s.jump a).readByte n = s.readByte n := rfl
@[simp] theorem State.keyDown_jump (a : Word) (j : Nibble) : (s.jump a).keyDown j = s.keyDown j := rfl

/-! ### `State.advance` -/

@[simp] theorem State.advance_v : (s.advance).v = s.v := rfl
@[simp] theorem State.advance_i : (s.advance).i = s.i := rfl
@[simp] theorem State.advance_pc : (s.advance).pc = s.pc + 2 := rfl
@[simp] theorem State.advance_dt : (s.advance).dt = s.dt := rfl
@[simp] theorem State.advance_st : (s.advance).st = s.st := rfl
@[simp] theorem State.advance_sp : (s.advance).sp = s.sp := rfl
@[simp] theorem State.advance_stack : (s.advance).stack = s.stack := rfl
@[simp] theorem State.advance_disp : (s.advance).disp = s.disp := rfl
@[simp] theorem State.advance_dirty : (s.advance).dirty = s.dirty := rfl
@[simp] theorem State.advance_keys : (s.advance).keys = s.keys := rfl
@[simp] theorem State.advance_kw : (s.advance).kw = s.kw := rfl
@[simp] theorem State.advance_mem : (s.advance).mem = s.mem := rfl
@[simp] theorem State.advance_draws : (s.advance).draws = s.draws := rfl
@[simp] theorem State.advance_config : (s.advance).config = s.config := rfl
@[simp] theorem State.getV_advance (r : Nibble) : (s.advance).getV r = s.getV r := rfl
@[simp] theorem State.readByte_advance (n : Nat) : (s.advance).readByte n = s.readByte n := rfl
@[simp] theorem State.keyDown_advance (j : Nibble) : (s.advance).keyDown j = s.keyDown j := rfl

/-! ### `State.skipIf` -/

@[simp] theorem State.skipIf_v (c : Bool) : (s.skipIf c).v = s.v := rfl
@[simp] theorem State.skipIf_i (c : Bool) : (s.skipIf c).i = s.i := rfl
@[simp] theorem State.skipIf_pc (c : Bool) : (s.skipIf c).pc = s.pc + if c then 4 else 2 := rfl
@[simp] theorem State.skipIf_dt (c : Bool) : (s.skipIf c).dt = s.dt := rfl
@[simp] theorem State.skipIf_st (c : Bool) : (s.skipIf c).st = s.st := rfl
@[simp] theorem State.skipIf_sp (c : Bool) : (s.skipIf c).sp = s.sp := rfl
@[simp] theorem State.skipIf_stack (c : Bool) : (s.skipIf c).stack = s.stack := rfl
@[simp] theorem State.skipIf_disp (c : Bool) : (s.skipIf c).disp = s.disp := rfl
@[simp] theorem State.skipIf_dirty (c : Bool) : (s.skipIf c).dirty = s.dirty := rfl
@[simp] theorem State.skipIf_keys (c : Bool) : (s.skipIf c).keys = s.keys := rfl
@[simp] theorem State.skipIf_kw (c : Bool) : (s.skipIf c).kw = s.kw := rfl
@[simp] theorem State.skipIf_mem (c : Bool) : (s.skipIf c).mem = s.mem := rfl
@[simp] theorem State.skipIf_draws (c : Bool) : (s.skipIf c).draws = s.draws := rfl
@[simp] theorem State.skipIf_config (c : Bool) : (s.skipIf c).config = s.config := rfl
@[simp] theorem State.getV_skipIf (c : Bool) (r : Nibble) : (s.skipIf c).getV r = s.getV r := rfl
@[simp] theorem State.readByte_skipIf (c : Bool) (n : Nat) : (s.skipIf c).readByte n = s.readByte n := rfl
@[simp] theorem State.keyDown_skipIf (c : Bool) (j : Nibble) : (s.skipIf c).keyDown j = s.keyDown j := rfl

/-! ### `State.clearDirty` -/

@[simp] theorem State.clearDirty_v : (s.clearDirty).v = s.v := rfl
@[simp] theorem State.clearDirty_i : (s.clearDirty).i = s.i := rfl
@[simp] theorem State.clearDirty_pc : (s.clearDirty).pc = s.pc := rfl
@[simp] theorem State.clearDirty_dt : (s.clearDirty).dt = s.dt := rfl
@[simp] theorem State.clearDirty_st : (s.clearDirty).st = s.st := rfl
@[simp] theorem State.clearDirty_sp : (s.clearDirty).sp = s.sp := rfl
@[simp] theorem State.clearDirty_stack : (s.clearDirty).stack = s.stack := rfl
@[simp] theorem State.clearDirty_disp : (s.clearDirty).disp = s.disp := rfl
@[simp] theorem State.clearDirty_dirty : (s.clearDirty).dirty = false := rfl
@[simp] theorem State.clearDirty_keys : (s.clearDirty).keys = s.keys := rfl
@[simp] theorem State.clearDirty_kw : (s.clearDirty).kw = s.kw := rfl
@[simp] theorem State.clearDirty_mem : (s.clearDirty).mem = s.mem := rfl
@[simp] theorem State.clearDirty_draws : (s.clearDirty).draws = s.draws := rfl
@[simp] theorem State.clearDirty_config : (s.clearDirty).config = s.config := rfl
@[simp] theorem State.getV_clearDirty (r : Nibble) : (s.clearDirty).getV r = s.getV r := rfl
@[simp] theorem State.readByte_clearDirty (n : Nat) : (s.clearDirty).readByte n = s.readByte n := rfl
@[simp] theorem State.keyDown_clearDirty (j : Nibble) : (s.clearDirty).keyDown j = s.keyDown j := rfl

/-! ### `State.markDirty` -/

@[simp] theorem State.markDirty_v : (s.markDirty).v = s.v := rfl
@[simp] theorem State.markDirty_i : (s.markDirty).i = s.i := rfl
@[simp] theorem State.markDirty_pc : (s.markDirty).pc = s.pc := rfl
@[simp] theorem State.markDirty_dt : (s.markDirty).dt = s.dt := rfl
@[simp] theorem State.markDirty_st : (s.markDirty).st = s.st := rfl
@[simp] theorem State.markDirty_sp : (s.markDirty).sp = s.sp := rfl
@[simp] theorem State.markDirty_stack : (s.markDirty).stack = s.stack := rfl
@[simp] theorem State.markDirty_disp : (s.markDirty).disp = s.disp := rfl
@[simp] theorem State.markDirty_dirty : (s.markDirty).dirty = true := rfl
@[simp] theorem State.markDirty_keys : (s.markDirty).keys = s.keys := rfl
@[simp] theorem State.markDirty_kw : (s.markDirty).kw = s.kw := rfl
@[simp] theorem State.markDirty_mem : (s.markDirty).mem = s.mem := rfl
@[simp] theorem State.markDirty_draws : (s.markDirty).draws = s.draws := rfl
@[simp] theorem State.markDirty_config : (s.markDirty).config = s.config := rfl
@[simp] theorem State.getV_markDirty (r : Nibble) : (s.markDirty).getV r = s.getV r := rfl
@[simp] theorem State.readByte_markDirty (n : Nat) : (s.markDirty).readByte n = s.readByte n := rfl
@[simp] theorem State.keyDown_markDirty (j : Nibble) : (s.markDirty).keyDown j = s.keyDown j := rfl

/-! ### `State.afterError` -/

@[simp] theorem State.afterError_v : (s.afterError).v = s.v := rfl
@[simp] theorem State.afterError_i : (s.afterError).i = s.i := rfl
@[simp] theorem State.afterError_pc : (s.afterError).pc = s.pc := rfl
@[simp] theorem State.afterError_dt : (s.afterError).dt = s.dt := rfl
@[simp] theorem State.afterError_st : (s.afterError).st = s.st := rfl
@[simp] theorem State.afterError_sp : (s.afterError).sp = s.sp := rfl
@[simp] theorem State.afterError_stack : (s.afterError).stack = s.stack := rfl
@[simp] theorem State.afterError_disp : (s.afterError).disp = s.disp := rfl
@[simp] theorem State.afterError_dirty : (s.afterError).dirty = false := rfl
@[simp] theorem State.afterError_keys : (s.afterError).keys = s.keys := rfl
@[simp] theorem State.afterError_kw : (s.afterError).kw = s.kw := rfl
@[simp] theorem State.afterError_mem : (s.afterError).mem = s.mem := rfl
@[simp] theorem State.afterError_draws : (s.afterError).draws = s.draws := rfl
@[simp] theorem State.afterError_config : (s.afterError).config = s.config := rfl
@[simp] theorem State.getV_afterError (r : Nibble) : (s.afterError).getV r = s.getV r := rfl
@[simp] theorem State.readByte_afterError (n : Nat) : (s.afterError).readByte n = s.readByte n := rfl
@[simp] theorem State.keyDown_afterError (j : Nibble) : (s.afterError).keyDown j = s.keyDown j := rfl

/-! ### `State.writeByte` -/

@[simp] theorem State.writeByte_v (a : Nat) (b : Byte) : (s.writeByte a b).v = s.v := rfl
@[simp] theorem State.writeByte_i (a : Nat) (b : Byte) : (s.writeByte a b).i = s.i := rfl
@[simp] theorem State.writeByte_pc (a : Nat) (b : Byte) : (s.writeByte a b).pc = s.pc := rfl
@[simp] theorem State.writeByte_dt (a : Nat) (b : Byte) : (s.writeByte a b).dt = s.dt := rfl
@[simp] theorem State.writeByte_st (a : Nat) (b : Byte) : (s.writeByte a b).st = s.st := rfl
@[simp] theorem State.writeByte_sp (a : Nat) (b : Byte) : (s.writeByte a b).sp = s.sp := rfl
@[simp] theorem State.writeByte_stack (a : Nat) (b : Byte) : (s.writeByte a b).stack = s.stack := rfl
@[simp] theorem State.writeByte_disp (a : Nat) (b : Byte) : (s.writeByte a b).disp = s.disp := rfl
@[simp] theorem State.writeByte_dirty (a : Nat) (b : Byte) : (s.writeByte a b).dirty = s.dirty := rfl
@[simp] theorem State.writeByte_keys (a : Nat) (b : Byte) : (s.writeByte a b).keys = s.keys := rfl
@[simp] theorem State.writeByte_kw (a : Nat) (b : Byte) : (s.writeByte a b).kw = s.kw := rfl
@[simp] theorem State.writeByte_mem (a : Nat) (b : Byte) : (s.writeByte a b).mem = Memory.store (resetByte s.config a) a b s.mem := rfl
@[simp] theorem State.writeByte_draws (a : Nat) (b : Byte) : (s.writeByte a b).draws = s.draws := rfl
@[simp] theorem State.writeByte_config (a : Nat) (b : Byte) : (s.writeByte a b).config = s.config := rfl
@[simp] theorem State.getV_writeByte (a : Nat) (b : Byte) (r : Nibble) : (s.writeByte a b).getV r = s.getV r := rfl
@[simp] theorem State.keyDown_writeByte (a : Nat) (b : Byte) (j : Nibble) : (s.writeByte a b).keyDown j = s.keyDown j := rfl

/-! ### `State.tick` -/

@[simp] theorem State.tick_v : (s.tick).v = s.v := rfl
@[simp] theorem State.tick_i : (s.tick).i = s.i := rfl
@[simp] theorem State.tick_pc : (s.tick).pc = s.pc := rfl
@[simp] theorem State.tick_dt : (s.tick).dt = tickTimer s.dt := rfl
@[simp] theorem State.tick_st : (s.tick).st = tickTimer s.st := rfl
@[simp] theorem State.tick_sp : (s.tick).sp = s.sp := rfl
@[simp] theorem State.tick_stack : (s.tick).stack = s.stack := rfl
@[simp] theorem State.tick_disp : (s.tick).disp = s.disp := rfl
@[simp] theorem State.tick_dirty : (s.tick).dirty = s.dirty := rfl
@[simp] theorem State.tick_keys : (s.tick).keys = s.keys := rfl
@[simp] theorem State.tick_kw : (s.tick).kw = s.kw := rfl
@[simp] theorem State.tick_mem : (s.tick).mem = s.mem := rfl
@[simp] theorem State.tick_draws : (s.tick).draws = s.draws := rfl
@[simp] theorem State.tick_config : (s.tick).config = s.config := rfl
@[simp] theorem State.getV_tick (r : Nibble) : (s.tick).getV r = s.getV r := rfl
@[simp] theorem State.readByte_tick (n : Nat) : (s.tick).readByte n = s.readByte n := rfl
@[simp] theorem State.keyDown_tick (j : Nibble) : (s.tick).keyDown j = s.keyDown j := rfl

/-! ### `State.writeBytes` -/

@[simp] theorem State.writeBytes_v (l : List Byte) : ∀ (s : State) (a : Nat), (s.writeBytes a l).v = s.v := by
  induction l with
  | nil => intros; rfl
  | cons b l ih => intro s a; simp [State.writeBytes, ih]
@[simp] theorem State.writeBytes_i (l : List Byte) : ∀ (s : State) (a : Nat), (s.writeBytes a l).i = s.i := by
  induction l with
  | nil => intros; rfl
  | cons b l ih => intro s a; simp [State.writeBytes, ih]
@[simp] theorem State.writeBytes_pc (l : List Byte) : ∀ (s : State) (a : Nat), (s.writeBytes a l).pc = s.pc := by
  induction l with
  | nil => intros; rfl
  | cons b l ih => intro s a; simp [State.writeBytes, ih]
@[simp] theorem State.writeBytes_dt (l : List Byte) : ∀ (s : State) (a : Nat), (s.writeBytes a l).dt = s.dt := by
  induction l with
  | nil => intros; rfl
  | cons b l ih => intro s a; simp [State.writeBytes, ih]
@[simp] theorem State.writeBytes_st (l : List Byte) : ∀ (s : State) (a : Nat), (s.writeBytes a l).st = s.st := by
  induction l with
  | nil => intros; rfl
  | cons b l ih => intro s a; simp [State.writeBytes, ih]
@[simp] theorem State.writeBytes_sp (l : List Byte) : ∀ (s : State) (a : Nat), (s.writeBytes a l).sp = s.sp := by
  induction l with
  | nil => intros; rfl
  | cons b l ih => intro s a; simp [State.writeBytes, ih]
@[simp] theorem State.writeBytes_stack (l : List Byte) : ∀ (s : State) (a : Nat), (s.writeBytes a l).stack = s.stack := by
  induction l with
  | nil => intros; rfl
  | cons b l ih => intro s a; simp [State.writeBytes, ih]
@[simp] theorem State.writeBytes_disp (l : List Byte) : ∀ (s : State) (a : Nat), (s.writeBytes a l).disp = s.disp := by
  induction l with
  | nil => intros; rfl
  | cons b l ih => intro s a; simp [State.writeBytes, ih]
@[simp] theorem State.writeBytes_dirty (l : List Byte) : ∀ (s : State) (a : Nat), (s.writeBytes a l).dirty = s.dirty := by
  induction l with
  | nil => intros; rfl
  | cons b l ih => intro s a; simp [State.writeBytes, ih]
@[simp] theorem State.writeBytes_keys (l : List Byte) : ∀ (s : State) (a : Nat), (s.writeBytes a l).keys = s.keys := by
  induction l with
  | nil => intros; rfl
  | cons b l ih => intro s a; simp [State.writeBytes, ih]
@[simp] theorem State.writeBytes_kw (l : List Byte) : ∀ (s : State) (a : Nat), (s.writeBytes a l).kw = s.kw := by
  induction l with
  | nil => intros; rfl
  | cons b l ih => intro s a; simp [State.writeBytes, ih]
@[simp] theorem State.writeBytes_draws (l : List Byte) : ∀ (s : State) (a : Nat), (s.writeBytes a l).draws = s.draws := by
  induction l with
  | nil => intros; rfl
  | cons b l ih => intro s a; simp [State.writeBytes, ih]
@[simp] theorem State.writeBytes_config (l : List Byte) : ∀ (s : State) (a : Nat), (s.writeBytes a l).config = s.config := by
  induction l with
  | nil => intros; rfl
  | cons b l ih => intro s a; simp [State.writeBytes, ih]

@[simp] theorem State.writeBytes_getV (l : List Byte) (s : State) (a : Nat) (r : Nibble) :
    (s.writeBytes a l).getV r = s.getV r := by simp [State.getV]

@[simp] theorem State.writeBytes_keyDown (l : List Byte) (s : State) (a : Nat) (k : Nibble) :
    (s.writeBytes a l).keyDown k = s.keyDown k := by simp [State.keyDown]

/-! ### `State.setVs` -/

@[simp] theorem State.setVs_i (l : List Byte) : ∀ (s : State) (a : Nat), (s.setVs a l).i = s.i := by
  induction l with
  | nil => intros; rfl
  | cons b l ih => intro s a; simp [State.setVs, ih]
@[simp] theorem State.setVs_pc (l : List Byte) : ∀ (s : State) (a : Nat), (s.setVs a l).pc = s.pc := by
  induction l with
  | nil => intros; rfl
  | cons b l ih => intro s a; simp [State.setVs, ih]
@[simp] theorem State.setVs_dt (l : List Byte) : ∀ (s : State) (a : Nat), (s.setVs a l).dt = s.dt := by
  induction l with
  | nil => intros; rfl
  | cons b l ih => intro s a; simp [State.setVs, ih]
@[simp] theorem State.setVs_st (l : List Byte) : ∀ (s : State) (a : Nat), (s.setVs a l).st = s.st := by
  induction l with
  | nil => intros; rfl
  | cons b l ih => intro s a; simp [State.setVs, ih]
@[simp] theorem State.setVs_sp (l : List Byte) : ∀ (s : State) (a : Nat), (s.setVs a l).sp = s.sp := by
  induction l with
  | nil => intros; rfl
  | cons b l ih => intro s a; simp [State.setVs, ih]
@[simp] theorem State.setVs_stack (l : List Byte) : ∀ (s : State) (a : Nat), (s.setVs a l).stack = s.stack := by
  induction l with
  | nil => intros; rfl
  | cons b l ih => intro s a; simp [State.setVs, ih]
@[simp] theorem State.setVs_disp (l : List Byte) : ∀ (s : State) (a : Nat), (s.setVs a l).disp = s.disp := by
  induction l with
  | nil => intros; rfl
  | cons b l ih => intro s a; simp [State.setVs, ih]
@[simp] theorem State.setVs_dirty (l : List Byte) : ∀ (s : State) (a : Nat), (s.setVs a l).dirty = s.dirty := by
  induction l with
  | nil => intros; rfl
  | cons b l ih => intro s a; simp [State.setVs, ih]
@[simp] theorem State.setVs_keys (l : List Byte) : ∀ (s : State) (a : Nat), (s.setVs a l).keys = s.keys := by
  induction l with
  | nil => intros; rfl
  | cons b l ih => intro s a; simp [State.setVs, ih]
@[simp] theorem State.setVs_kw (l : List Byte) : ∀ (s : State) (a : Nat), (s.setVs a l).kw = s.kw := by
  induction l with
  | nil => intros; rfl
  | cons b l ih => intro s a; simp [State.setVs, ih]
@[simp] theorem State.setVs_mem (l : List Byte) : ∀ (s : State) (a : Nat), (s.setVs a l).mem = s.mem := by
  induction l with
  | nil => intros; rfl
  | cons b l ih => intro s a; simp [State.setVs, ih]
@[simp] theorem State.setVs_draws (l : List Byte) : ∀ (s : State) (a : Nat), (s.setVs a l).draws = s.draws := by
  induction l with
  | nil => intros; rfl
  | cons b l ih => intro s a; simp [State.setVs, ih]
@[simp] theorem State.setVs_config (l : List Byte) : ∀ (s : State) (a : Nat), (s.setVs a l).config = s.config := by
  induction l with
  | nil => intros; rfl
  | cons b l ih => intro s a; simp [State.setVs, ih]

@[simp] theorem State.setVs_readByte (l : List Byte) (s : State) (x a : Nat) :
    (s.setVs x l).readByte a = s.readByte a := by simp [State.readByte]

@[simp] theorem State.setVs_keyDown (l : List Byte) (s : State) (x : Nat) (k : Nibble) :
    (s.setVs x l).keyDown k = s.keyDown k := by simp [State.keyDown]

/-! ### `State.key`: only the key flags and the capture state -/


@[simp] theorem State.key_v (k : Nibble) (p : Bool) : (s.key k p).v = s.v := by
  unfold State.key; split <;> rfl
@[simp] theorem State.key_i (k : Nibble) (p : Bool) : (s.key k p).i = s.i := by
  unfold State.key; split <;> rfl
@[simp] theorem State.key_pc (k : Nibble) (p : Bool) : (s.key k p).pc = s.pc := by
  unfold State.key; split <;> rfl
@[simp] theorem State.key_dt (k : Nibble) (p : Bool) : (s.key k p).dt = s.dt := by
  unfold State.key; split <;> rfl
@[simp] theorem State.key_st (k : Nibble) (p : Bool) : (s.key k p).st = s.st := by
  unfold State.key; split <;> rfl
@[simp] theorem State.key_sp (k : Nibble) (p : Bool) : (s.key k p).sp = s.sp := by
  unfold State.key; split <;> rfl
@[simp] theorem State.key_stack (k : Nibble) (p : Bool) : (s.key k p).stack = s.stack := by
  unfold State.key; split <;> rfl
@[simp] theorem State.key_disp (k : Nibble) (p : Bool) : (s.key k p).disp = s.disp := by
  unfold State.key; split <;> rfl
@[simp] theorem State.key_dirty (k : Nibble) (p : Bool) : (s.key k p).dirty = s.dirty := by
  unfold State.key; split <;> rfl
@[simp] theorem State.key_mem (k : Nibble) (p : Bool) : (s.key k p).mem = s.mem := by
  unfold State.key; split <;> rfl
@[simp] theorem State.key_draws (k : Nibble) (p : Bool) : (s.key k p).draws = s.draws := by
  unfold State.key; split <;> rfl
@[simp] theorem State.key_config (k : Nibble) (p : Bool) : (s.key k p).config = s.config := by
  unfold State.key; split <;> rfl

@[simp] theorem State.key_keys (k : Nibble) (p : Bool) : (s.key k p).keys = s.keys.set k.toNat p k.isLt := by
  unfold State.key; split <;> rfl

/-- The capture of 44_keypad.md R212: an up-to-down edge while armed, and nothing else. -/
theorem State.key_kw (k : Nibble) (p : Bool) :
    (s.key k p).kw = if s.kw = .armed ∧ s.keyDown k = false ∧ p = true then .captured k else s.kw := by
  unfold State.key; split <;> rfl

end Sys2Proof.Machine
end

