-- ==== Sys2Proof/Laws/Display.lean ====
section
/-! SUPPORT. The sprite-draw loop in closed form: no cell is visited twice (43_display.md R193 corner case 1), so every
cell is XORed with its one source bit and the collision test sees the display before the draw. -/

namespace Sys2Proof.Machine

@[simp] theorem Display.pixel_setPixel (d : Display) (px qx : Fin 64) (py qy : Fin 32) (b : Bool) :
    (d.setPixel px py b).pixel qx qy = if qx = px ∧ qy = py then b else d.pixel qx qy := by
  unfold Display.pixel Display.setPixel
  rw [Vector.getElem_set]
  by_cases hy : qy = py
  · subst hy
    by_cases hx : qx = px
    · simp [hx]
    · have : px.val ≠ qx.val := fun h => hx (Fin.ext h.symm)
      simp [hx, this]
  · have : py.val ≠ qy.val := fun h => hy (Fin.ext h.symm)
    simp [hy, this]

/-- Two pixels of a sprite fall on different cells. -/
def SpritePixel.apart (p q : SpritePixel) : Prop := ¬ (p.px = q.px ∧ p.py = q.py)

/-- One turn of the loop leaves every other cell alone. -/
theorem drawPixel_pixel (g : Bool) (acc : Bool × Display) (p : SpritePixel) (qx : Fin 64) (qy : Fin 32) :
    (drawPixel g acc p).2.pixel qx qy =
      if qx = p.px ∧ qy = p.py then acc.2.pixel qx qy ^^ p.bit else acc.2.pixel qx qy := by
  unfold drawPixel
  simp only [Display.pixel_setPixel]
  split
  · rename_i h; rw [h.1, h.2]
  · rfl

/-- The loop in closed form, from any collision flag and display. -/
theorem foldl_drawPixel (g : Bool) (ps : List SpritePixel) : ∀ acc : Bool × Display,
    ps.Pairwise SpritePixel.apart →
    (ps.foldl (drawPixel g) acc).1 = (acc.1 || ps.any fun p => collide g p.bit (acc.2.pixel p.px p.py)) ∧
    ∀ qx qy, (ps.foldl (drawPixel g) acc).2.pixel qx qy =
      (acc.2.pixel qx qy ^^ ps.any fun p => decide (qx = p.px ∧ qy = p.py) && p.bit) := by
  induction ps with
  | nil => intro acc _; simp
  | cons p ps ih =>
    intro acc h
    obtain ⟨hp, hps⟩ := List.pairwise_cons.1 h
    obtain ⟨h1, h2⟩ := ih (drawPixel g acc p) hps
    have hcell : ∀ q ∈ ps, (drawPixel g acc p).2.pixel q.px q.py = acc.2.pixel q.px q.py := by
      intro q hq
      rw [drawPixel_pixel, if_neg]
      rintro ⟨ex, ey⟩
      exact hp q hq ⟨ex.symm, ey.symm⟩
    constructor
    · rw [List.foldl_cons, h1]
      have : (ps.any fun q => collide g q.bit ((drawPixel g acc p).2.pixel q.px q.py)) =
          ps.any fun q => collide g q.bit (acc.2.pixel q.px q.py) := by
        rw [Bool.eq_iff_iff, List.any_eq_true, List.any_eq_true]
        constructor <;> rintro ⟨q, hq, hc⟩ <;> refine ⟨q, hq, ?_⟩
        · rwa [← hcell q hq]
        · rwa [hcell q hq]
      rw [this]
      simp [drawPixel, Bool.or_assoc]
    · intro qx qy
      rw [List.foldl_cons, h2, drawPixel_pixel]
      by_cases hq : qx = p.px ∧ qy = p.py
      · have hno : (ps.any fun q => decide (qx = q.px ∧ qy = q.py) && q.bit) = false := by
          rw [Bool.eq_false_iff, Ne, List.any_eq_true]
          rintro ⟨q, hqm, hc⟩
          simp only [Bool.and_eq_true, decide_eq_true_eq] at hc
          exact hp q hqm ⟨hq.1.symm.trans hc.1.1, hq.2.symm.trans hc.1.2⟩
        simp only [List.any_cons, hno]
        simp [hq]
      · simp [hq]

/-- Membership in the pixels of a sprite: row `r`, column `c`, its cell and its source bit (43_display.md R193). -/
theorem mem_spritePixels (a b : Byte) (rows : List Byte) (p : SpritePixel) : p ∈ spritePixels a b rows ↔
    ∃ r, ∃ h : r < rows.length, ∃ c < 8,
      p = { px := wrapColumn a c, py := wrapRow b r, bit := rows[r].getLsbD (7 - c) } := by
  unfold spritePixels spriteRow
  simp only [List.mem_flatMap, List.mem_map, List.mem_range, Prod.exists]
  constructor
  · rintro ⟨byte, r, hm, c, hc, rfl⟩
    obtain ⟨hr, he⟩ := List.mem_zipIdx' hm
    exact ⟨r, hr, c, hc, by rw [he]⟩
  · rintro ⟨r, hr, c, hc, rfl⟩
    exact ⟨rows[r], r, by rw [List.mem_zipIdx_iff_getElem?]; simp [hr], c, hc, rfl⟩

theorem wrapColumn_inj (a : Byte) (c c' : Nat) (hc : c < 8) (hc' : c' < 8) (h : wrapColumn a c = wrapColumn a c') :
    c = c' := by
  have := congrArg Fin.val h
  simp only [wrapColumn] at this
  omega

theorem wrapRow_inj (b : Byte) (r r' : Nat) (hr : r < 32) (hr' : r' < 32) (h : wrapRow b r = wrapRow b r') :
    r = r' := by
  have := congrArg Fin.val h
  simp only [wrapRow] at this
  omega

/-- No two pixels of a sprite of at most 32 rows fall on one cell (R193 corner case 1). -/
theorem spritePixels_apart (a b : Byte) (rows : List Byte) (hl : rows.length ≤ 32) :
    (spritePixels a b rows).Pairwise SpritePixel.apart := by
  unfold spritePixels
  rw [List.pairwise_flatMap]
  constructor
  · intro p _
    unfold spriteRow
    rw [List.pairwise_map]
    refine List.Pairwise.imp_of_mem ?_ (List.pairwise_lt_range (n := 8))
    intro c c' hc hc' hlt h
    rw [List.mem_range] at hc hc'
    have := wrapColumn_inj a c c' hc hc' h.1
    omega
  · rw [List.pairwise_iff_getElem]
    intro m n hm hn hlt p hp q hq hpq
    unfold spriteRow at hp hq
    simp only [List.mem_map, List.mem_range, List.getElem_zipIdx] at hp hq
    simp only [List.length_zipIdx] at hm hn
    obtain ⟨c, hc, rfl⟩ := hp
    obtain ⟨c', hc', rfl⟩ := hq
    have := wrapRow_inj b (0 + m) (0 + n) (by omega) (by omega) hpq.2
    omega

/-- The whole draw in closed form (R193, R194), for a sprite of at most 32 rows. -/
theorem drawSprite_spec (g : Bool) (d : Display) (a b : Byte) (rows : List Byte) (hl : rows.length ≤ 32) :
    (drawSprite g d (spritePixels a b rows)).1 =
        ((spritePixels a b rows).any fun p => collide g p.bit (d.pixel p.px p.py)) ∧
    ∀ qx qy, (drawSprite g d (spritePixels a b rows)).2.pixel qx qy =
      (d.pixel qx qy ^^ (spritePixels a b rows).any fun p => decide (qx = p.px ∧ qy = p.py) && p.bit) := by
  have := foldl_drawPixel g (spritePixels a b rows) (false, d) (spritePixels_apart a b rows hl)
  simpa [drawSprite] using this

/-- A blank display has no lit cell. -/
@[simp] theorem Display.pixel_blank (px : Fin 64) (py : Fin 32) : Display.blank.pixel px py = false := by
  simp [Display.pixel, Display.blank]

end Sys2Proof.Machine
end

