-- ==== Sys2Proof/Laws/Encoding.lean ====
section
/-! SUPPORT. The bits and fields of an encoded word, format by format, and a word put together from its fields. -/

namespace Sys2Proof

/-! ### Bits of a word, format by format -/

theorem nnnWord_bit (op : Nibble) (nnn : Addr12) (i : Nat) :
    (nnnWord op nnn).getLsbD i = if i < 12 then nnn.getLsbD i else op.getLsbD (i - 12) := BitVec.getLsbD_append

theorem xkkWord_bit (op x : Nibble) (kk : Byte) (i : Nat) : (xkkWord op x kk).getLsbD i =
    if i < 8 then kk.getLsbD i else if i - 8 < 4 then x.getLsbD (i - 8) else op.getLsbD (i - 8 - 4) :=
  BitVec.getLsbD_append.trans (by rw [BitVec.getLsbD_append])

theorem xynWord_bit (op x y n : Nibble) (i : Nat) : (xynWord op x y n).getLsbD i =
    if i < 4 then n.getLsbD i else if i - 4 < 4 then y.getLsbD (i - 4)
    else if i - 4 - 4 < 4 then x.getLsbD (i - 4 - 4) else op.getLsbD (i - 4 - 4 - 4) :=
  BitVec.getLsbD_append.trans (by rw [BitVec.getLsbD_append, BitVec.getLsbD_append])

theorem wordOfBytes_bit (hi lo : Byte) (i : Nat) :
    (wordOfBytes hi lo).getLsbD i = if i < 8 then lo.getLsbD i else hi.getLsbD (i - 8) := BitVec.getLsbD_append

/-! ### Fields of an encoded word -/

@[simp] theorem opField_nnnWord (op : Nibble) (nnn : Addr12) : opField (nnnWord op nnn) = op := by
  unfold opField; ext i hi; simp [nnnWord_bit, BitVec.getLsbD_eq_getElem hi]

@[simp] theorem nnnField_nnnWord (op : Nibble) (nnn : Addr12) : nnnField (nnnWord op nnn) = nnn := by
  unfold nnnField; ext i hi; simp [nnnWord_bit, hi]

@[simp] theorem opField_xkkWord (op x : Nibble) (kk : Byte) : opField (xkkWord op x kk) = op := by
  unfold opField; ext i hi
  have h1 : ¬ 12 + i < 8 := by omega
  have h2 : ¬ 12 + i - 8 < 4 := by omega
  have h3 : 12 + i - 8 - 4 = i := by omega
  simp [xkkWord_bit, h1, h2, h3, BitVec.getLsbD_eq_getElem hi]

@[simp] theorem xField_xkkWord (op x : Nibble) (kk : Byte) : xField (xkkWord op x kk) = x := by
  unfold xField; ext i hi; simp [xkkWord_bit, hi]

@[simp] theorem kkField_xkkWord (op x : Nibble) (kk : Byte) : kkField (xkkWord op x kk) = kk := by
  unfold kkField; ext i hi; simp [xkkWord_bit, hi]

@[simp] theorem opField_xynWord (op x y n : Nibble) : opField (xynWord op x y n) = op := by
  unfold opField; ext i hi
  have h1 : ¬ 12 + i < 4 := by omega
  have h2 : ¬ 12 + i - 4 < 4 := by omega
  have h3 : ¬ 12 + i - 4 - 4 < 4 := by omega
  have h4 : 12 + i - 4 - 4 - 4 = i := by omega
  simp [xynWord_bit, h1, h2, h3, h4, BitVec.getLsbD_eq_getElem hi]

@[simp] theorem xField_xynWord (op x y n : Nibble) : xField (xynWord op x y n) = x := by
  unfold xField; ext i hi
  have h1 : ¬ 8 + i < 4 := by omega
  have h2 : ¬ 8 + i - 4 < 4 := by omega
  have h4 : 8 + i - 4 - 4 = i := by omega
  simp [xynWord_bit, h1, h2, hi, h4]

@[simp] theorem yField_xynWord (op x y n : Nibble) : yField (xynWord op x y n) = y := by
  unfold yField; ext i hi; simp [xynWord_bit, hi]

@[simp] theorem nField_xynWord (op x y n : Nibble) : nField (xynWord op x y n) = n := by
  unfold nField; ext i hi; simp [xynWord_bit, hi]

@[simp] theorem hiByte_wordOfBytes (hi lo : Byte) : hiByte (wordOfBytes hi lo) = hi := by
  unfold hiByte; ext i h; simp [wordOfBytes_bit, BitVec.getLsbD_eq_getElem h]

@[simp] theorem loByte_wordOfBytes (hi lo : Byte) : loByte (wordOfBytes hi lo) = lo := by
  unfold loByte; ext i h; simp [wordOfBytes_bit, h]

/-! ### A word from its fields -/

/-- Big-endian: the two bytes of a word give it back (20_memory.md R65). -/
@[simp] theorem wordOfBytes_bytes (w : Word) : wordOfBytes (hiByte w) (loByte w) = w := by
  apply BitVec.eq_of_getLsbD_eq
  intro i hi
  rw [wordOfBytes_bit]
  unfold hiByte loByte
  simp only [BitVec.getLsbD_extractLsb', Nat.zero_add]
  split_ifs with h
  · simp [h]
  · have h1 : i - 8 < 8 := by omega
    have h2 : 8 + (i - 8) = i := by omega
    simp [h1, h2]

theorem nnnWord_fields (w : Word) : nnnWord (opField w) (nnnField w) = w := by
  apply BitVec.eq_of_getLsbD_eq
  intro i hi
  rw [nnnWord_bit]
  unfold opField nnnField
  simp only [BitVec.getLsbD_extractLsb', Nat.zero_add]
  split_ifs with h
  · simp [h]
  · have h1 : i - 12 < 4 := by omega
    have h2 : 12 + (i - 12) = i := by omega
    simp [h1, h2]

theorem xkkWord_fields (w : Word) : xkkWord (opField w) (xField w) (kkField w) = w := by
  apply BitVec.eq_of_getLsbD_eq
  intro i hi
  rw [xkkWord_bit]
  unfold opField xField kkField
  simp only [BitVec.getLsbD_extractLsb', Nat.zero_add]
  split_ifs with h h'
  · simp [h]
  · have h2 : 8 + (i - 8) = i := by omega
    simp [h', h2]
  · have h1 : i - 8 - 4 < 4 := by omega
    have h2 : 12 + (i - 8 - 4) = i := by omega
    simp [h1, h2]

theorem xynWord_fields (w : Word) : xynWord (opField w) (xField w) (yField w) (nField w) = w := by
  apply BitVec.eq_of_getLsbD_eq
  intro i hi
  rw [xynWord_bit]
  unfold opField xField yField nField
  simp only [BitVec.getLsbD_extractLsb', Nat.zero_add]
  split_ifs with h h' h''
  · simp [h]
  · have h2 : 4 + (i - 4) = i := by omega
    simp [h', h2]
  · have h2 : 8 + (i - 4 - 4) = i := by omega
    simp [h'', h2]
  · have h1 : i - 4 - 4 - 4 < 4 := by omega
    have h2 : 12 + (i - 4 - 4 - 4) = i := by omega
    simp [h1, h2]

/-- Two words of format NNN are equal when their fields are. -/
theorem nnnWord_inj (op op' : Nibble) (a a' : Addr12) : nnnWord op a = nnnWord op' a' ↔ op = op' ∧ a = a' := by
  constructor
  · intro h
    exact ⟨by rw [← opField_nnnWord op a, h, opField_nnnWord], by rw [← nnnField_nnnWord op a, h, nnnField_nnnWord]⟩
  · rintro ⟨rfl, rfl⟩; rfl

theorem xynWord_inj (op op' x x' y y' n n' : Nibble) :
    xynWord op x y n = xynWord op' x' y' n' ↔ op = op' ∧ x = x' ∧ y = y' ∧ n = n' := by
  constructor
  · intro h
    exact ⟨by rw [← opField_xynWord op x y n, h, opField_xynWord], by rw [← xField_xynWord op x y n, h, xField_xynWord],
      by rw [← yField_xynWord op x y n, h, yField_xynWord], by rw [← nField_xynWord op x y n, h, nField_xynWord]⟩
  · rintro ⟨rfl, rfl, rfl, rfl⟩; rfl

/-! ### Masks: bitwise AND goes field by field -/

theorem xynWord_and (op op' x x' y y' n n' : Nibble) :
    xynWord op x y n &&& xynWord op' x' y' n' = xynWord (op &&& op') (x &&& x') (y &&& y') (n &&& n') := by
  apply BitVec.eq_of_getLsbD_eq
  intro i _
  simp only [BitVec.getLsbD_and, xynWord_bit]
  split_ifs <;> rfl

theorem xkkWord_and (op op' x x' : Nibble) (kk kk' : Byte) :
    xkkWord op x kk &&& xkkWord op' x' kk' = xkkWord (op &&& op') (x &&& x') (kk &&& kk') := by
  apply BitVec.eq_of_getLsbD_eq
  intro i _
  simp only [BitVec.getLsbD_and, xkkWord_bit]
  split_ifs <;> rfl

theorem nnnWord_and (op op' : Nibble) (nnn nnn' : Addr12) :
    nnnWord op nnn &&& nnnWord op' nnn' = nnnWord (op &&& op') (nnn &&& nnn') := by
  apply BitVec.eq_of_getLsbD_eq
  intro i _
  simp only [BitVec.getLsbD_and, nnnWord_bit]
  split_ifs <;> rfl

/-- The mask of a row of format NNN keeps the family alone (R95). -/
@[simp] theorem nnnWord_familyMask (op : Nibble) (nnn : Addr12) : nnnWord op nnn &&& 0xF000#16 = nnnWord op 0#12 := by
  rw [show (0xF000#16 : Word) = nnnWord 0xF 0 by decide, nnnWord_and, show op &&& 0xF = op from BitVec.and_allOnes]
  simp

/-- The mask of a row of format XKK keeps the family alone (R95). -/
@[simp] theorem xkkWord_familyMask (op x : Nibble) (kk : Byte) : xkkWord op x kk &&& 0xF000#16 = nnnWord op 0#12 := by
  rw [show (0xF000#16 : Word) = xkkWord 0xF 0 0 by decide, xkkWord_and, show op &&& 0xF = op from BitVec.and_allOnes]
  simp
  revert op; decide

/-- The mask of a row of format XYN keeps the family alone (R95). -/
@[simp] theorem xynWord_familyMask (op x y n : Nibble) : xynWord op x y n &&& 0xF000#16 = nnnWord op 0#12 := by
  rw [show (0xF000#16 : Word) = xynWord 0xF 0 0 0 by decide, xynWord_and, show op &&& 0xF = op from BitVec.and_allOnes]
  simp
  revert op; decide

/-- The mask of a row of format XY keeps the family and the low nibble (R95). -/
@[simp] theorem xynWord_lowNibbleMask (op x y n : Nibble) : xynWord op x y n &&& 0xF00F#16 = xynWord op 0#4 0#4 n := by
  rw [show (0xF00F#16 : Word) = xynWord 0xF 0 0 0xF by decide, xynWord_and, show op &&& 0xF = op from BitVec.and_allOnes,
    show n &&& 0xF = n from BitVec.and_allOnes]
  simp

/-- The mask of a row of format X keeps the family and the low byte (R95). -/
@[simp] theorem xkkWord_lowByteMask (op x : Nibble) (kk : Byte) : xkkWord op x kk &&& 0xF0FF#16 = xkkWord op 0#4 kk := by
  rw [show (0xF0FF#16 : Word) = xkkWord 0xF 0 0xFF by decide, xkkWord_and, show op &&& 0xF = op from BitVec.and_allOnes,
    show kk &&& 0xFF = kk from BitVec.and_allOnes]
  simp

end Sys2Proof
end

