-- ==== Sys2Proof/Laws/Memory.lean ====
section
/-! SUPPORT. The laws of memory: a read after a write, and the canonical form, which every memory operation keeps. -/

namespace Sys2Proof.Machine

/-! ### The list of cells -/

theorem Memory.lookup_eq_none_of_risingFrom : ∀ (m : Memory) (lo a : Nat), Memory.risingFrom lo m = true → a < lo →
    Memory.lookup m a = none
  | [], _, _, _, _ => rfl
  | (k, v) :: rest, lo, a, h, ha => by
    simp only [Memory.risingFrom, Bool.and_eq_true, decide_eq_true_eq] at h
    have hk : k ≠ a := by omega
    simp [Memory.lookup, hk, lookup_eq_none_of_risingFrom rest (k + 1) a h.2 (by omega)]

theorem Memory.risingFrom_mono : ∀ (m : Memory) (lo lo' : Nat), lo' ≤ lo → Memory.risingFrom lo m = true →
    Memory.risingFrom lo' m = true
  | [], _, _, _, _ => rfl
  | (k, v) :: rest, lo, lo', h, hm => by
    simp only [Memory.risingFrom, Bool.and_eq_true, decide_eq_true_eq] at hm ⊢
    exact ⟨by omega, hm.2⟩

/-- Reading through the reset content `bg` after a store. -/
theorem Memory.lookup_store (bg : Nat → Byte) (a : Nat) (b : Byte) (c : Nat) : ∀ (m : Memory) (lo : Nat),
    Memory.risingFrom lo m = true →
    (Memory.lookup (Memory.store (bg a) a b m) c).getD (bg c) = if c = a then b else (Memory.lookup m c).getD (bg c)
  | [], lo, _ => by
    by_cases hb : b = bg a <;> by_cases hc : c = a
    · subst hc; simp [Memory.store, Memory.lookup, hb]
    · simp [Memory.store, Memory.lookup, hb, hc]
    · subst hc; simp [Memory.store, Memory.lookup, hb]
    · simp [Memory.store, Memory.lookup, hb, hc, Ne.symm hc]
  | (k, v) :: rest, lo, h => by
    simp only [Memory.risingFrom, Bool.and_eq_true, decide_eq_true_eq] at h
    have ih := Memory.lookup_store bg a b c rest (k + 1) h.2
    have hnone : c ≤ k → Memory.lookup rest c = none :=
      fun hc => Memory.lookup_eq_none_of_risingFrom rest (k + 1) c h.2 (by omega)
    by_cases hka : k < a
    · by_cases hkc : k = c
      · subst hkc
        have : k ≠ a := by omega
        simp [Memory.store, Memory.lookup, hka, this]
      · simp [Memory.store, Memory.lookup, hka, hkc, ih]
    · by_cases hke : k = a
      · subst hke
        by_cases hc : c = k
        · subst hc
          by_cases hb : b = bg c <;> simp [Memory.store, Memory.lookup, hb, hnone]
        · have hkc : k ≠ c := Ne.symm hc
          by_cases hb : b = bg k <;> simp [Memory.store, Memory.lookup, hb, hc, hkc]
      · by_cases hc : c = a
        · subst hc
          have hn : Memory.lookup rest c = none := hnone (by omega)
          by_cases hb : b = bg c <;> simp [Memory.store, Memory.lookup, hka, hke, hb, hn]
        · have hac : a ≠ c := Ne.symm hc
          by_cases hb : b = bg a <;> simp [Memory.store, Memory.lookup, hka, hke, hb, hc, hac]

theorem Memory.risingFrom_store (bg : Byte) (a : Nat) (b : Byte) : ∀ (m : Memory) (lo : Nat), lo ≤ a →
    Memory.risingFrom lo m = true → Memory.risingFrom lo (Memory.store bg a b m) = true
  | [], lo, ha, _ => by
    by_cases hb : b = bg <;> simp [Memory.store, Memory.risingFrom, hb, ha]
  | (k, v) :: rest, lo, ha, h => by
    simp only [Memory.risingFrom, Bool.and_eq_true, decide_eq_true_eq] at h
    unfold Memory.store
    split_ifs with h1 h2 h3 h3
    · simp [Memory.risingFrom, h.1, Memory.risingFrom_store bg a b rest (k + 1) (by omega) h.2]
    · exact Memory.risingFrom_mono rest (k + 1) lo (by omega) h.2
    · subst h2; simp [Memory.risingFrom, h.1, h.2]
    · simp [Memory.risingFrom, h.1, h.2]
    · simp [Memory.risingFrom, ha, h.2]; omega

theorem Memory.mem_store (bg : Byte) (a : Nat) (b : Byte) (e : Host.Cell) : ∀ m : Memory,
    e ∈ Memory.store bg a b m → e ∈ m ∨ (e = (a, b) ∧ b ≠ bg)
  | [], h => by
    by_cases hb : b = bg <;> simp [Memory.store, hb] at h ⊢
    exact h
  | (k, v) :: rest, h => by
    unfold Memory.store at h
    split_ifs at h with h1 h2 h3 h3
    · rcases List.mem_cons.1 h with h | h
      · simp [h]
      · rcases Memory.mem_store bg a b e rest h with h | h
        · simp [h]
        · exact .inr h
    · simp [h]
    · rcases List.mem_cons.1 h with h | h
      · exact .inr ⟨h, h3⟩
      · simp [h]
    · exact .inl h
    · rcases List.mem_cons.1 h with h | h
      · exact .inr ⟨h, h3⟩
      · exact .inl h

/-- What the canonical form says. -/
theorem Memory.wf_iff (c : Config) (m : Memory) : Memory.wf c m = true ↔
    Memory.risingFrom 0 m = true ∧ ∀ e ∈ m, e.1 < 4096 ∧ e.2 ≠ resetByte c e.1 := by
  simp [Memory.wf]

/-- A store at an address below 4096 keeps the canonical form. -/
theorem Memory.wf_store (c : Config) (m : Memory) (a : Nat) (b : Byte) (ha : a < 4096) (h : Memory.wf c m = true) :
    Memory.wf c (Memory.store (resetByte c a) a b m) = true := by
  rw [Memory.wf_iff] at h ⊢
  refine ⟨Memory.risingFrom_store _ a b m 0 (by omega) h.1, fun e he => ?_⟩
  rcases Memory.mem_store _ a b e m he with he | ⟨rfl, hb⟩
  · exact h.2 e he
  · exact ⟨ha, hb⟩

/-! ### Bytes of a state -/

/-- A byte read after a byte write (20_memory.md R67, R70): memory in canonical form, or at least rising. -/
theorem State.readByte_writeByte (s : State) (h : Memory.risingFrom 0 s.mem = true) (a c : Nat) (b : Byte) :
    (s.writeByte a b).readByte c = if c = a then b else s.readByte c :=
  Memory.lookup_store (resetByte s.config) a b c s.mem 0 h

theorem State.writeBytes_rising (l : List Byte) : ∀ (s : State) (a : Nat), Memory.risingFrom 0 s.mem = true →
    Memory.risingFrom 0 (s.writeBytes a l).mem = true := by
  induction l with
  | nil => intro s a h; exact h
  | cons b l ih =>
    intro s a h
    exact ih (s.writeByte a b) (a + 1) (Memory.risingFrom_store _ a b s.mem 0 (by omega) h)

/-- A byte read after a block write (20_memory.md R64): the written bytes in ascending order, every other as before. -/
theorem State.readByte_writeBytes (l : List Byte) : ∀ (s : State) (a c : Nat), Memory.risingFrom 0 s.mem = true →
    (s.writeBytes a l).readByte c = if h : a ≤ c ∧ c < a + l.length then l[c - a] else s.readByte c := by
  induction l with
  | nil => intro s a c _; simp [State.writeBytes]
  | cons b l ih =>
    intro s a c h
    have h' : Memory.risingFrom 0 (s.writeByte a b).mem = true :=
      Memory.risingFrom_store _ a b s.mem 0 (by omega) h
    simp only [State.writeBytes, ih _ (a + 1) c h', State.readByte_writeByte s h, List.length_cons]
    split_ifs with h1 h2 h3 h4 h5
    · have : c - a = (c - (a + 1)) + 1 := by omega
      simp [this]
    · omega
    · simp [h3]
    · omega
    · omega
    · rfl

/-- A block write below 4096 keeps the canonical form. -/
theorem State.writeBytes_wf (l : List Byte) : ∀ (s : State) (a : Nat), a + l.length ≤ 4096 →
    Memory.wf s.config s.mem = true → Memory.wf s.config (s.writeBytes a l).mem = true := by
  induction l with
  | nil => intro s a _ h; exact h
  | cons b l ih =>
    intro s a ha h
    simp only [List.length_cons] at ha
    exact ih (s.writeByte a b) (a + 1) (by omega) (Memory.wf_store s.config s.mem a b (by omega) h)

end Sys2Proof.Machine
end

