-- ==== Sys2Proof/Laws/Registers.lean ====
section
/-! SUPPORT. What a register read gives after each register write: one spec lemma per operation. -/

namespace Sys2Proof.Machine

@[simp] theorem State.getV_setV (s : State) (x r : Nibble) (b : Byte) :
    (s.setV x b).getV r = if r = x then b else s.getV r := by
  unfold State.getV State.setV
  rw [Vector.getElem_set]
  by_cases h : r = x
  · simp [h]
  · have : x.toNat ≠ r.toNat := fun e => h (BitVec.eq_of_toNat_eq e.symm)
    simp [h, this]

/-- The result wins over the flag when VF is the destination (42_alu.md R160). -/
@[simp] theorem State.getV_setFlagThenV (s : State) (f : Byte) (x r : Nibble) (b : Byte) :
    (s.setFlagThenV f x b).getV r = if r = x then b else if r = vf then f else s.getV r := by
  simp [State.setFlagThenV]

/-- After a block load into the registers from number `x` on: the `j`-th listed byte is in register `x + j`. -/
theorem State.getV_setVs (l : List Byte) : ∀ (s : State) (x : Nat) (r : Nibble), x + l.length ≤ 16 →
    (s.setVs x l).getV r = if h : x ≤ r.toNat ∧ r.toNat < x + l.length then l[r.toNat - x] else s.getV r := by
  induction l with
  | nil => intro s x r _; simp [State.setVs]
  | cons b l ih =>
    intro s x r hx
    simp only [List.length_cons] at hx
    have hxr : r = BitVec.ofNat 4 x ↔ r.toNat = x := by
      constructor
      · rintro rfl; simp; omega
      · intro h; apply BitVec.eq_of_toNat_eq; simp; omega
    simp only [State.setVs, ih _ (x + 1) r (by omega), State.getV_setV, hxr, List.length_cons]
    split_ifs with h1 h2 h3 h4 h5
    · have : r.toNat - x = (r.toNat - (x + 1)) + 1 := by omega
      simp [this]
    · omega
    · simp [h3]
    · omega
    · omega
    · rfl

@[simp] theorem State.keyDown_setKey (s : State) (k j : Nibble) (p : Bool) :
    (s.setKey k p).keyDown j = if j = k then p else s.keyDown j := by
  unfold State.keyDown State.setKey
  rw [Vector.getElem_set]
  by_cases h : j = k
  · simp [h]
  · have : k.toNat ≠ j.toNat := fun e => h (BitVec.eq_of_toNat_eq e.symm)
    simp [h, this]

/-- A KEY transaction sets its own flag and no other (44_keypad.md R212). -/
@[simp] theorem State.keyDown_key (s : State) (k j : Nibble) (p : Bool) :
    (s.key k p).keyDown j = if j = k then p else s.keyDown j := by
  rw [← State.keyDown_setKey]
  simp [State.keyDown]

@[simp] theorem State.blockValues_length (s : State) (x : Nibble) : (s.blockValues x).length = x.toNat + 1 := by
  simp [State.blockValues, blockCount]

@[simp] theorem State.blockValues_getElem (s : State) (x : Nibble) (j : Nat) (h : j < (s.blockValues x).length) :
    (s.blockValues x)[j] = s.getV (BitVec.ofNat 4 j) := by
  simp [State.blockValues]

end Sys2Proof.Machine
end

