-- ==== Sys2Proof/Laws/Ops.lean ====
section
/-! SUPPORT. One spec lemma per shared operation over stack, memory and fetch: everything it can answer. -/

namespace Sys2Proof.Machine

/-! ### The call stack -/

theorem State.push_eq_ok_iff (s t : State) (a : Word) : s.push a = .ok t ↔
    ∃ h : s.sp.val < 16, t = { s with stack := s.stack.set s.sp.val a h, sp := ⟨s.sp.val + 1, by omega⟩ } := by
  unfold State.push
  split
  · rename_i h; simp [h, eq_comm]
  · rename_i h; simp [h]

theorem State.push_eq_error_iff (s : State) (a : Word) (e : Fault) :
    s.push a = .error e ↔ s.sp.val = 16 ∧ e = .stackOverflow := by
  have := s.sp.isLt
  unfold State.push
  split
  · simp; omega
  · simp [eq_comm]; omega

theorem State.pop_eq_ok_iff (s : State) (p : Word × State) : s.pop = .ok p ↔
    ∃ _ : s.sp.val ≠ 0, p = (s.stack[s.sp.val - 1]'(by omega), { s with sp := ⟨s.sp.val - 1, by omega⟩ }) := by
  unfold State.pop
  split
  · rename_i h; simp [h]
  · rename_i h; simp [h, eq_comm]

theorem State.pop_eq_error_iff (s : State) (e : Fault) :
    s.pop = .error e ↔ s.sp.val = 0 ∧ e = .stackUnderflow := by
  unfold State.pop
  split
  · rename_i h; simp [h, eq_comm]
  · rename_i h; simp [h]

/-! ### Bounds and blocks of memory -/

theorem outOfBounds_eq_true_iff (a n : Nat) : outOfBounds a n = true ↔ 1 ≤ n ∧ 4096 ≤ a + n - 1 := by
  simp [outOfBounds]

theorem outOfBounds_eq_false_iff (a n : Nat) : outOfBounds a n = false ↔ n = 0 ∨ a + n ≤ 4096 := by
  rw [← Bool.not_eq_true, outOfBounds_eq_true_iff]; omega

theorem State.memRead_eq_ok_iff (s : State) (e : Fault) (a : Word) (n : Nat) (l : List Byte) :
    s.memRead e a n = .ok l ↔
      (n = 0 ∨ a.toNat + n ≤ 4096) ∧ l = (List.range n).map fun j => s.readByte (a.toNat + j) := by
  unfold State.memRead
  rw [← outOfBounds_eq_false_iff]
  cases outOfBounds a.toNat n <;> simp [eq_comm]

theorem State.memRead_eq_error_iff (s : State) (e e' : Fault) (a : Word) (n : Nat) :
    s.memRead e a n = .error e' ↔ (1 ≤ n ∧ 4096 ≤ a.toNat + n - 1) ∧ e' = e := by
  unfold State.memRead
  rw [← outOfBounds_eq_true_iff]
  cases outOfBounds a.toNat n <;> simp [eq_comm]

theorem State.memWrite_eq_ok_iff (s t : State) (a : Word) (l : List Byte) : s.memWrite a l = .ok t ↔
    (l.length = 0 ∨ a.toNat + l.length ≤ 4096) ∧ t = s.writeBytes a.toNat l := by
  unfold State.memWrite
  rw [← outOfBounds_eq_false_iff]
  cases outOfBounds a.toNat l.length <;> simp [eq_comm]

theorem State.memWrite_eq_error_iff (s : State) (a : Word) (l : List Byte) (e : Fault) : s.memWrite a l = .error e ↔
    (1 ≤ l.length ∧ 4096 ≤ a.toNat + l.length - 1) ∧ e = .outOfBoundsStore := by
  unfold State.memWrite
  rw [← outOfBounds_eq_true_iff]
  cases outOfBounds a.toNat l.length <;> simp [eq_comm]

/-! ### Fetch -/

theorem State.fetchWord_eq_ok_iff (s : State) (w : Word) : s.fetchWord = .ok w ↔
    s.pc.toNat ≤ 4094 ∧ w = wordOfBytes (s.readByte s.pc.toNat) (s.readByte (s.pc.toNat + 1)) := by
  unfold State.fetchWord
  have h : s.pc.toNat ≤ 4094 ↔ outOfBounds s.pc.toNat 2 = false := by rw [outOfBounds_eq_false_iff]; omega
  rw [h]
  cases outOfBounds s.pc.toNat 2 <;> simp [eq_comm]

theorem State.fetchWord_eq_error_iff (s : State) (e : Fault) :
    s.fetchWord = .error e ↔ 4095 ≤ s.pc.toNat ∧ e = .outOfBoundsFetch := by
  unfold State.fetchWord
  have h : 4095 ≤ s.pc.toNat ↔ outOfBounds s.pc.toNat 2 = true := by rw [outOfBounds_eq_true_iff]; omega
  rw [h]
  cases outOfBounds s.pc.toNat 2 <;> simp [eq_comm]

/-- What fetch and decode answer when an instruction is there. -/
theorem State.fetchInstr_eq_ok_iff (s : State) (i : Instr) : s.fetchInstr = .ok i ↔ s.pc.toNat ≤ 4094 ∧
    decodeWord (wordOfBytes (s.readByte s.pc.toNat) (s.readByte (s.pc.toNat + 1))) = .ok i := by
  unfold State.fetchInstr
  constructor
  · intro h
    split at h
    · cases h
    · rename_i w hw
      obtain ⟨hpc, rfl⟩ := (s.fetchWord_eq_ok_iff w).1 hw
      split at h
      · rename_i j hj; cases h; exact ⟨hpc, hj⟩
      · cases h
  · rintro ⟨hpc, hd⟩
    rw [(s.fetchWord_eq_ok_iff _).2 ⟨hpc, rfl⟩]
    simp [hd]

/-- Fetch reads `pc` and memory only. -/
theorem State.fetchInstr_congr (s t : State) (hpc : t.pc = s.pc) (hmem : t.mem = s.mem) (hc : t.config = s.config) :
    t.fetchInstr = s.fetchInstr := by
  simp [State.fetchInstr, State.fetchWord, State.readByte, hpc, hmem, hc]

@[simp] theorem State.fetchInstr_clearDirty (s : State) : s.clearDirty.fetchInstr = s.fetchInstr := rfl

end Sys2Proof.Machine
end

