-- ==== Sys2Proof/Laws/Frame.lean ====
section
/-! SUPPORT. The sets a frame names, as conditions on their members. -/

namespace Sys2Proof.Machine

/-- The addresses a store through `I` writes. -/
theorem mem_addressesFromI (s : State) (n a : Nat) :
    a ∈ s.addressesFromI n ↔ s.i.toNat ≤ a ∧ a < s.i.toNat + n := by
  unfold State.addressesFromI
  rw [List.mem_map]
  constructor
  · rintro ⟨j, hj, rfl⟩; rw [List.mem_range] at hj; omega
  · rintro ⟨h1, h2⟩; exact ⟨a - s.i.toNat, List.mem_range.2 (by omega), by omega⟩

/-- The registers a block load writes. -/
theorem mem_registersUpTo (x r : Nibble) : r ∈ registersUpTo x ↔ r.toNat ≤ x.toNat := by
  have := x.isLt
  unfold registersUpTo blockCount
  rw [List.mem_map]
  constructor
  · rintro ⟨j, hj, rfl⟩; rw [List.mem_range] at hj; simp; omega
  · intro h; exact ⟨r.toNat, List.mem_range.2 (by omega), by simp⟩

/-- Canonical memory is rising memory, which is what a read after a write needs. -/
theorem Memory.rising_of_wf {c : Config} {m : Memory} (h : Memory.wf c m = true) : Memory.risingFrom 0 m = true :=
  ((Memory.wf_iff c m).1 h).1

end Sys2Proof.Machine
end

