-- ==== Sys2Proof/Laws/PerInstr.lean ====
section
/-! SUPPORT. Statements about every instruction as syntax, one lemma per constructor. -/

namespace Sys2Proof.Laws

/-- The word of a well-formed instruction selects the row of the opcode map that carries its mnemonic
(30_encoding.md R95). -/
def EncodedWordSelectsRow.Statement (i : Instr) : Prop :=
  i.wf = true → ∃ r ∈ opcodeRows, r.mnemonic = i.mnemonic ∧ r.selects (encode i) = true

theorem EncodedWordSelectsRow.sys (nnn : Addr12) :
    EncodedWordSelectsRow.Statement (.sys nnn) := by
  intro h
  refine ⟨{ mnemonic := "SYS_nnn", mask := 0xF000#16, pattern := 0x0000#16, exclude := [0x00E0#16, 0x00EE#16] }, by decide, rfl, ?_⟩
  have h1 : nnnWord 0x0#4 nnn ≠ 0x00E0#16 := fun e => by
    rw [show (0x00E0#16 : Word) = nnnWord 0x0#4 0x0E0#12 by decide, nnnWord_inj] at e
    simp [Instr.wf, e.2] at h
  have h2 : nnnWord 0x0#4 nnn ≠ 0x00EE#16 := fun e => by
    rw [show (0x00EE#16 : Word) = nnnWord 0x0#4 0x0EE#12 by decide, nnnWord_inj] at e
    simp [Instr.wf, e.2] at h
  simp [OpcodeRow.selects, encode]
  exact ⟨by decide, h1, h2⟩

theorem EncodedWordSelectsRow.cls :
    EncodedWordSelectsRow.Statement (.cls) := by
  exact fun _ => ⟨{ mnemonic := "CLS", mask := 0xFFFF#16, pattern := 0x00E0#16 }, by decide, rfl, by decide⟩

theorem EncodedWordSelectsRow.ret :
    EncodedWordSelectsRow.Statement (.ret) := by
  exact fun _ => ⟨{ mnemonic := "RET", mask := 0xFFFF#16, pattern := 0x00EE#16 }, by decide, rfl, by decide⟩

theorem EncodedWordSelectsRow.jp (nnn : Addr12) :
    EncodedWordSelectsRow.Statement (.jp nnn) := by
  refine fun _ => ⟨{ mnemonic := "JP_nnn", mask := 0xF000#16, pattern := 0x1000#16 }, by decide, rfl, ?_⟩
  simp [OpcodeRow.selects, encode]
  decide

theorem EncodedWordSelectsRow.call (nnn : Addr12) :
    EncodedWordSelectsRow.Statement (.call nnn) := by
  refine fun _ => ⟨{ mnemonic := "CALL_nnn", mask := 0xF000#16, pattern := 0x2000#16 }, by decide, rfl, ?_⟩
  simp [OpcodeRow.selects, encode]
  decide

theorem EncodedWordSelectsRow.seImm (x : Nibble) (kk : Byte) :
    EncodedWordSelectsRow.Statement (.seImm x kk) := by
  refine fun _ => ⟨{ mnemonic := "SE_Vx_kk", mask := 0xF000#16, pattern := 0x3000#16 }, by decide, rfl, ?_⟩
  simp [OpcodeRow.selects, encode]
  decide

theorem EncodedWordSelectsRow.sneImm (x : Nibble) (kk : Byte) :
    EncodedWordSelectsRow.Statement (.sneImm x kk) := by
  refine fun _ => ⟨{ mnemonic := "SNE_Vx_kk", mask := 0xF000#16, pattern := 0x4000#16 }, by decide, rfl, ?_⟩
  simp [OpcodeRow.selects, encode]
  decide

theorem EncodedWordSelectsRow.seReg (x : Nibble) (y : Nibble) :
    EncodedWordSelectsRow.Statement (.seReg x y) := by
  refine fun _ => ⟨{ mnemonic := "SE_Vx_Vy", mask := 0xF00F#16, pattern := 0x5000#16 }, by decide, rfl, ?_⟩
  simp [OpcodeRow.selects, encode]
  decide

theorem EncodedWordSelectsRow.ldImm (x : Nibble) (kk : Byte) :
    EncodedWordSelectsRow.Statement (.ldImm x kk) := by
  refine fun _ => ⟨{ mnemonic := "LD_Vx_kk", mask := 0xF000#16, pattern := 0x6000#16 }, by decide, rfl, ?_⟩
  simp [OpcodeRow.selects, encode]
  decide

theorem EncodedWordSelectsRow.addImm (x : Nibble) (kk : Byte) :
    EncodedWordSelectsRow.Statement (.addImm x kk) := by
  refine fun _ => ⟨{ mnemonic := "ADD_Vx_kk", mask := 0xF000#16, pattern := 0x7000#16 }, by decide, rfl, ?_⟩
  simp [OpcodeRow.selects, encode]
  decide

theorem EncodedWordSelectsRow.ldReg (x : Nibble) (y : Nibble) :
    EncodedWordSelectsRow.Statement (.ldReg x y) := by
  refine fun _ => ⟨{ mnemonic := "LD_Vx_Vy", mask := 0xF00F#16, pattern := 0x8000#16 }, by decide, rfl, ?_⟩
  simp [OpcodeRow.selects, encode]
  decide

theorem EncodedWordSelectsRow.orReg (x : Nibble) (y : Nibble) :
    EncodedWordSelectsRow.Statement (.orReg x y) := by
  refine fun _ => ⟨{ mnemonic := "OR_Vx_Vy", mask := 0xF00F#16, pattern := 0x8001#16 }, by decide, rfl, ?_⟩
  simp [OpcodeRow.selects, encode]
  decide

theorem EncodedWordSelectsRow.andReg (x : Nibble) (y : Nibble) :
    EncodedWordSelectsRow.Statement (.andReg x y) := by
  refine fun _ => ⟨{ mnemonic := "AND_Vx_Vy", mask := 0xF00F#16, pattern := 0x8002#16 }, by decide, rfl, ?_⟩
  simp [OpcodeRow.selects, encode]
  decide

theorem EncodedWordSelectsRow.xorReg (x : Nibble) (y : Nibble) :
    EncodedWordSelectsRow.Statement (.xorReg x y) := by
  refine fun _ => ⟨{ mnemonic := "XOR_Vx_Vy", mask := 0xF00F#16, pattern := 0x8003#16 }, by decide, rfl, ?_⟩
  simp [OpcodeRow.selects, encode]
  decide

theorem EncodedWordSelectsRow.addReg (x : Nibble) (y : Nibble) :
    EncodedWordSelectsRow.Statement (.addReg x y) := by
  refine fun _ => ⟨{ mnemonic := "ADD_Vx_Vy", mask := 0xF00F#16, pattern := 0x8004#16 }, by decide, rfl, ?_⟩
  simp [OpcodeRow.selects, encode]
  decide

theorem EncodedWordSelectsRow.sub (x : Nibble) (y : Nibble) :
    EncodedWordSelectsRow.Statement (.sub x y) := by
  refine fun _ => ⟨{ mnemonic := "SUB_Vx_Vy", mask := 0xF00F#16, pattern := 0x8005#16 }, by decide, rfl, ?_⟩
  simp [OpcodeRow.selects, encode]
  decide

theorem EncodedWordSelectsRow.shr (x : Nibble) :
    EncodedWordSelectsRow.Statement (.shr x) := by
  refine fun _ => ⟨{ mnemonic := "SHR_Vx", mask := 0xF00F#16, pattern := 0x8006#16 }, by decide, rfl, ?_⟩
  simp [OpcodeRow.selects, encode]
  decide

theorem EncodedWordSelectsRow.subn (x : Nibble) (y : Nibble) :
    EncodedWordSelectsRow.Statement (.subn x y) := by
  refine fun _ => ⟨{ mnemonic := "SUBN_Vx_Vy", mask := 0xF00F#16, pattern := 0x8007#16 }, by decide, rfl, ?_⟩
  simp [OpcodeRow.selects, encode]
  decide

theorem EncodedWordSelectsRow.shl (x : Nibble) :
    EncodedWordSelectsRow.Statement (.shl x) := by
  refine fun _ => ⟨{ mnemonic := "SHL_Vx", mask := 0xF00F#16, pattern := 0x800E#16 }, by decide, rfl, ?_⟩
  simp [OpcodeRow.selects, encode]
  decide

theorem EncodedWordSelectsRow.sneReg (x : Nibble) (y : Nibble) :
    EncodedWordSelectsRow.Statement (.sneReg x y) := by
  refine fun _ => ⟨{ mnemonic := "SNE_Vx_Vy", mask := 0xF00F#16, pattern := 0x9000#16 }, by decide, rfl, ?_⟩
  simp [OpcodeRow.selects, encode]
  decide

theorem EncodedWordSelectsRow.ldI (nnn : Addr12) :
    EncodedWordSelectsRow.Statement (.ldI nnn) := by
  refine fun _ => ⟨{ mnemonic := "LD_I_nnn", mask := 0xF000#16, pattern := 0xA000#16 }, by decide, rfl, ?_⟩
  simp [OpcodeRow.selects, encode]
  decide

theorem EncodedWordSelectsRow.jpV0 (nnn : Addr12) :
    EncodedWordSelectsRow.Statement (.jpV0 nnn) := by
  refine fun _ => ⟨{ mnemonic := "JP_V0_nnn", mask := 0xF000#16, pattern := 0xB000#16 }, by decide, rfl, ?_⟩
  simp [OpcodeRow.selects, encode]
  decide

theorem EncodedWordSelectsRow.rnd (x : Nibble) (kk : Byte) :
    EncodedWordSelectsRow.Statement (.rnd x kk) := by
  refine fun _ => ⟨{ mnemonic := "RND_Vx_kk", mask := 0xF000#16, pattern := 0xC000#16 }, by decide, rfl, ?_⟩
  simp [OpcodeRow.selects, encode]
  decide

theorem EncodedWordSelectsRow.drw (x : Nibble) (y : Nibble) (n : Nibble) :
    EncodedWordSelectsRow.Statement (.drw x y n) := by
  refine fun _ => ⟨{ mnemonic := "DRW_Vx_Vy_n", mask := 0xF000#16, pattern := 0xD000#16 }, by decide, rfl, ?_⟩
  simp [OpcodeRow.selects, encode]
  decide

theorem EncodedWordSelectsRow.skp (x : Nibble) :
    EncodedWordSelectsRow.Statement (.skp x) := by
  refine fun _ => ⟨{ mnemonic := "SKP_Vx", mask := 0xF0FF#16, pattern := 0xE09E#16 }, by decide, rfl, ?_⟩
  simp [OpcodeRow.selects, encode]
  decide

theorem EncodedWordSelectsRow.sknp (x : Nibble) :
    EncodedWordSelectsRow.Statement (.sknp x) := by
  refine fun _ => ⟨{ mnemonic := "SKNP_Vx", mask := 0xF0FF#16, pattern := 0xE0A1#16 }, by decide, rfl, ?_⟩
  simp [OpcodeRow.selects, encode]
  decide

theorem EncodedWordSelectsRow.ldVxDt (x : Nibble) :
    EncodedWordSelectsRow.Statement (.ldVxDt x) := by
  refine fun _ => ⟨{ mnemonic := "LD_Vx_DT", mask := 0xF0FF#16, pattern := 0xF007#16 }, by decide, rfl, ?_⟩
  simp [OpcodeRow.selects, encode]
  decide

theorem EncodedWordSelectsRow.ldVxK (x : Nibble) :
    EncodedWordSelectsRow.Statement (.ldVxK x) := by
  refine fun _ => ⟨{ mnemonic := "LD_Vx_K", mask := 0xF0FF#16, pattern := 0xF00A#16 }, by decide, rfl, ?_⟩
  simp [OpcodeRow.selects, encode]
  decide

theorem EncodedWordSelectsRow.ldDtVx (x : Nibble) :
    EncodedWordSelectsRow.Statement (.ldDtVx x) := by
  refine fun _ => ⟨{ mnemonic := "LD_DT_Vx", mask := 0xF0FF#16, pattern := 0xF015#16 }, by decide, rfl, ?_⟩
  simp [OpcodeRow.selects, encode]
  decide

theorem EncodedWordSelectsRow.ldStVx (x : Nibble) :
    EncodedWordSelectsRow.Statement (.ldStVx x) := by
  refine fun _ => ⟨{ mnemonic := "LD_ST_Vx", mask := 0xF0FF#16, pattern := 0xF018#16 }, by decide, rfl, ?_⟩
  simp [OpcodeRow.selects, encode]
  decide

theorem EncodedWordSelectsRow.addI (x : Nibble) :
    EncodedWordSelectsRow.Statement (.addI x) := by
  refine fun _ => ⟨{ mnemonic := "ADD_I_Vx", mask := 0xF0FF#16, pattern := 0xF01E#16 }, by decide, rfl, ?_⟩
  simp [OpcodeRow.selects, encode]
  decide

theorem EncodedWordSelectsRow.ldF (x : Nibble) :
    EncodedWordSelectsRow.Statement (.ldF x) := by
  refine fun _ => ⟨{ mnemonic := "LD_F_Vx", mask := 0xF0FF#16, pattern := 0xF029#16 }, by decide, rfl, ?_⟩
  simp [OpcodeRow.selects, encode]
  decide

theorem EncodedWordSelectsRow.ldB (x : Nibble) :
    EncodedWordSelectsRow.Statement (.ldB x) := by
  refine fun _ => ⟨{ mnemonic := "LD_B_Vx", mask := 0xF0FF#16, pattern := 0xF033#16 }, by decide, rfl, ?_⟩
  simp [OpcodeRow.selects, encode]
  decide

theorem EncodedWordSelectsRow.ldMemVx (x : Nibble) :
    EncodedWordSelectsRow.Statement (.ldMemVx x) := by
  refine fun _ => ⟨{ mnemonic := "LD__I__Vx", mask := 0xF0FF#16, pattern := 0xF055#16 }, by decide, rfl, ?_⟩
  simp [OpcodeRow.selects, encode]
  decide

theorem EncodedWordSelectsRow.ldVxMem (x : Nibble) :
    EncodedWordSelectsRow.Statement (.ldVxMem x) := by
  refine fun _ => ⟨{ mnemonic := "LD_Vx__I", mask := 0xF0FF#16, pattern := 0xF065#16 }, by decide, rfl, ?_⟩
  simp [OpcodeRow.selects, encode]
  decide

end Sys2Proof.Laws
end

