-- ==== Sys2Proof/Laws/Step.lean ====
section
/-! SUPPORT. What a STEP can do, said once: its inversion lemmas, from which every claim about steps is derived. -/

namespace Sys2Proof.Machine

/-- A STEP that answers a next state fetched some instruction and executed it after `DIRTY <- 0`. -/
theorem step_next_cases (s t : State) (h : step s = .next t) :
    ∃ i, s.fetchInstr = .ok i ∧ exec i s.clearDirty = .next t := by
  unfold step raise at h
  rw [State.fetchInstr_clearDirty] at h
  split at h
  · cases h
  · rename_i i hi; exact ⟨i, hi, h⟩

/-- A STEP that answers an error met it in the fetch, in the decode, or in the execute stage (R125). -/
theorem step_fault_cases (s : State) (e : Fault) (h : step s = .fault e) :
    s.fetchInstr = .error e ∨ ∃ i, s.fetchInstr = .ok i ∧ exec i s.clearDirty = .fault e := by
  unfold step raise at h
  rw [State.fetchInstr_clearDirty] at h
  split at h
  · rename_i e' he; cases h; exact .inl he
  · rename_i i hi; exact .inr ⟨i, hi, h⟩

/-- A machine on which STEP answers a next state is left in that state. -/
theorem State.afterStep_of_next (s t : State) (h : step s = .next t) : s.afterStep = t := by
  simp [State.afterStep, h]

/-- A machine on which STEP answers an error is left as it was but for `DIRTY <- 0` (R263). -/
theorem State.afterStep_of_fault (s : State) (e : Fault) (h : step s = .fault e) : s.afterStep = s.afterError := by
  simp [State.afterStep, h]

/-! ### Transactions -/

@[simp] theorem Response.error_ok : Response.error .ok = none := rfl
@[simp] theorem Response.error_err (e : Fault) : (Response.err e).error = some e := rfl
@[simp] theorem Response.error_silent : Response.error .silent = none := rfl
@[simp] theorem Response.error_bit (b : Bool) : (Response.bit b).error = none := rfl

/-- Everything a transaction other than RESET can do to a system: it needs a machine, acts on that machine alone, and
records its error unless one is recorded already (60_exceptions.md R263). -/
theorem transact_eq_some_iff (t : Transaction) (ht : ∀ image, t ≠ .reset image) (sys sys' : System) (r : Response) :
    transact t sys = some (r, sys') ↔ ∃ s u, sys.machine = some s ∧ transactOn t s = some (r, u) ∧
      sys' = { sys with machine := some u, firstError := sys.firstError.or r.error } := by
  have key : transact t sys = match sys.machine with
      | none => none
      | some s => (transactOn t s).map fun r =>
          (r.1, { sys with machine := some r.2, firstError := sys.firstError.or r.1.error }) := by
    cases t <;> first | rfl | exact absurd rfl (ht _)
  rw [key]
  cases sys.machine with
  | none => simp
  | some s =>
    simp only [Option.map_eq_some_iff, Prod.mk.injEq, Option.some.injEq, Prod.exists]
    constructor
    · rintro ⟨r', u, h, rfl, rfl⟩; exact ⟨s, u, rfl, h, rfl⟩
    · rintro ⟨s', u, rfl, h, rfl⟩; exact ⟨r, u, h, rfl, rfl⟩

/-- A schedule's first transaction, then the rest. -/
theorem runSchedule_cons_eq_some_iff (t : Transaction) (rest : List Transaction) (sys sys' : System)
    (responses : List Response) : runSchedule (t :: rest) sys = some (responses, sys') ↔
      ∃ r sys₁ later, transact t sys = some (r, sys₁) ∧ runSchedule rest sys₁ = some (later, sys') ∧
        responses = r :: later := by
  simp only [runSchedule]
  cases transact t sys with
  | none => simp
  | some p =>
    obtain ⟨r, sys₁⟩ := p
    simp only [Option.map_eq_some_iff, Prod.mk.injEq, Option.some.injEq, Prod.exists]
    constructor
    · rintro ⟨later, x, h, rfl, rfl⟩; exact ⟨r, sys₁, later, ⟨rfl, rfl⟩, h, rfl⟩
    · rintro ⟨r', s', later, ⟨rfl, rfl⟩, h, rfl⟩; exact ⟨later, sys', h, rfl, rfl⟩

end Sys2Proof.Machine
end

