-- ==== Sys2Proof/Tests/Slice0.lean ====
section
/-! SUPPORT. The model's own tests. Expected values are those of spec/95_test_vectors.md (vector ids in the comments)
and of the encoding column of 30_encoding.md R95; then, for every obligation with hypotheses, a state and operands that
meet them all. -/

namespace Sys2Proof.Tests

open Sys2Proof Sys2Proof.Machine

set_option Elab.async false

/-! ### WellFormed: the ill-formed terms are refused -/

theorem test_wf_refuses_sys_that_is_cls : (Instr.sys 0x0E0#12).wf = false := by decide
theorem test_wf_refuses_sys_that_is_ret : (Instr.sys 0x0EE#12).wf = false := by decide
theorem test_wf_accepts_neighbours : (Instr.sys 0x0E1#12).wf = true ∧ (Instr.sys 0x000#12).wf = true := by decide

/-! ### Decoding: one word of each row, written nibble by nibble from R95 -/

theorem test_decode_family0 : decodeWord 0x0123#16 = .ok (.sys 0x123#12) ∧ decodeWord 0x00E0#16 = .ok .cls ∧
    decodeWord 0x00EE#16 = .ok .ret ∧ decodeWord 0x00E1#16 = .ok (.sys 0x0E1#12) := by decide
theorem test_decode_jumps : decodeWord 0x1FED#16 = .ok (.jp 0xFED#12) ∧ decodeWord 0x2ABC#16 = .ok (.call 0xABC#12) ∧
    decodeWord 0xBFA1#16 = .ok (.jpV0 0xFA1#12) := by decide
theorem test_decode_skips : decodeWord 0x3A42#16 = .ok (.seImm 0xA#4 0x42#8) ∧
    decodeWord 0x4B43#16 = .ok (.sneImm 0xB#4 0x43#8) ∧ decodeWord 0x5120#16 = .ok (.seReg 0x1#4 0x2#4) ∧
    decodeWord 0x9340#16 = .ok (.sneReg 0x3#4 0x4#4) := by decide
theorem test_decode_loads : decodeWord 0x6A2F#16 = .ok (.ldImm 0xA#4 0x2F#8) ∧
    decodeWord 0x70FF#16 = .ok (.addImm 0x0#4 0xFF#8) ∧ decodeWord 0x8120#16 = .ok (.ldReg 0x1#4 0x2#4) := by decide
theorem test_decode_family8_logic : decodeWord 0x8CD1#16 = .ok (.orReg 0xC#4 0xD#4) ∧
    decodeWord 0x8CD2#16 = .ok (.andReg 0xC#4 0xD#4) ∧ decodeWord 0x8CD3#16 = .ok (.xorReg 0xC#4 0xD#4) := by decide
theorem test_decode_family8_arithmetic : decodeWord 0x8CD4#16 = .ok (.addReg 0xC#4 0xD#4) ∧
    decodeWord 0x8CD5#16 = .ok (.sub 0xC#4 0xD#4) ∧ decodeWord 0x8CD7#16 = .ok (.subn 0xC#4 0xD#4) := by decide
theorem test_decode_family8_shifts : decodeWord 0x80A6#16 = .ok (.shr 0x0#4) ∧ decodeWord 0x8C06#16 = .ok (.shr 0xC#4) ∧
    decodeWord 0x810E#16 = .ok (.shl 0x1#4) ∧ decodeWord 0x81FE#16 = .ok (.shl 0x1#4) := by decide
theorem test_decode_index_random_draw : decodeWord 0xA2F0#16 = .ok (.ldI 0x2F0#12) ∧
    decodeWord 0xC30F#16 = .ok (.rnd 0x3#4 0x0F#8) ∧ decodeWord 0xD125#16 = .ok (.drw 0x1#4 0x2#4 0x5#4) := by decide
theorem test_decode_familyE : decodeWord 0xE59E#16 = .ok (.skp 0x5#4) ∧ decodeWord 0xE6A1#16 = .ok (.sknp 0x6#4) := by
  decide
theorem test_decode_familyF_timers : decodeWord 0xF207#16 = .ok (.ldVxDt 0x2#4) ∧
    decodeWord 0xF30A#16 = .ok (.ldVxK 0x3#4) ∧ decodeWord 0xF415#16 = .ok (.ldDtVx 0x4#4) ∧
    decodeWord 0xF518#16 = .ok (.ldStVx 0x5#4) := by decide
theorem test_decode_familyF_memory : decodeWord 0xF61E#16 = .ok (.addI 0x6#4) ∧ decodeWord 0xF729#16 = .ok (.ldF 0x7#4) ∧
    decodeWord 0xF833#16 = .ok (.ldB 0x8#4) ∧ decodeWord 0xF955#16 = .ok (.ldMemVx 0x9#4) ∧
    decodeWord 0xFE65#16 = .ok (.ldVxMem 0xE#4) := by decide
/-- Vectors I-1 to I-5. -/
theorem test_decode_illegal : [0x5121#16, 0x9121#16, 0x8008#16, 0x800F#16, 0x8129#16, 0xE500#16, 0xE59F#16, 0xF000#16,
    0xF034#16, 0xF075#16].all (fun w => decide (decodeWord w = .error .illegalOpcode)) = true := by decide
/-- R65, R90: the high byte first, exactly two bytes, the rest untouched; one byte is no instruction. -/
theorem test_decode_bytes : decode [0x12#8, 0x34#8, 0x56#8] = .ok (.jp 0x234#12, [0x56#8]) ∧
    decode [0x12#8] = .error .truncated := by decide
theorem test_encode_words : encode (.drw 0x1#4 0x2#4 0x5#4) = 0xD125#16 ∧ encode (.shr 0x0#4) = 0x8006#16 ∧
    encode (.ldB 0x0#4) = 0xF033#16 ∧ encode (.call 0x300#12) = 0x2300#16 := by decide

/-! ### One step on a small state -/

/-- The reset state under the other values of the two policies. -/
def other : State := State.resetWith { Config.standard with sysPolicy := .illegal, drwCollisionGated := false }

/-- The state after one STEP of the word `w` placed at `pc`, if it completes. -/
def run (w : Nat) (s : State) : Option State :=
  match step (s.withFetchWord 16 w) with
  | .next t => some t
  | _ => none

/-- The error a result is, if it is one. -/
def errOf (r : Result) : Option Fault :=
  match r with
  | .fault e => some e
  | _ => none

/-- The error of one STEP of the word `w` placed at `pc`, if it raises one. -/
def err (w : Nat) (s : State) : Option Fault := errOf (step (s.withFetchWord 16 w))

/-- The reset state with registers given by number. -/
def regs (l : List (Nibble × Byte)) : State := l.foldl (fun s p => s.setV p.1 p.2) State.reset

/-- The first byte of `pc`, of `V[x]` and of VF after a step. -/
def alu (x : Nibble) (s : Option State) : Option (Word × Byte × Byte) := s.map fun t => (t.pc, t.getV x, t.getV vf)

-- SYS-1, SYS-3, I-6
theorem test_sys_nop : (run 0x0123 State.reset).map (fun t => (t.pc, t.mem.length)) = some (0x202, 2) := by decide +kernel
theorem test_sys_illegal : err 0x0123 other = some .illegalOpcode := by decide +kernel
-- CLS-1
theorem test_cls : (run 0x00E0 (State.reset.setDisp (Display.blank.setPixel 63 31 true))).map
    (fun t => (t.disp.pixel 63 31, t.dirty, t.pc)) = some (false, true, 0x202) := by decide +kernel
-- RET-1, RET-2
theorem test_ret : (run 0x00EE { State.reset with pc := 0x300, sp := 1, stack := State.reset.stack.set 0 0x20A }).map
    (fun t => (t.pc, t.sp)) = some (0x20A, 0) := by decide +kernel
theorem test_ret_empty : err 0x00EE State.reset = some .stackUnderflow := by decide +kernel
-- JP-1 (S5), JP-5
theorem test_jp : (run 0x1300 State.reset).map (·.pc) = some 0x300 ∧ (run 0x1201 State.reset).map (·.pc) = some 0x201 := by
  decide +kernel
-- CALL-2, CALL-3
theorem test_call_last : (run 0x2300 { State.reset with sp := 15 }).map (fun t => (t.pc, t.sp, t.stack[15])) =
    some (0x300, 16, 0x202) := by decide +kernel
theorem test_call_full : err 0x2300 { State.reset with sp := 16 } = some .stackOverflow := by decide +kernel
-- SE-1, SE-2; SNE-1, SNE-2
theorem test_se_imm : (run 0x3A42 (regs [(0xA, 0x42)])).map (·.pc) = some 0x204 ∧
    (run 0x3A42 (regs [(0xA, 0x43)])).map (·.pc) = some 0x202 := by decide +kernel
theorem test_sne_imm : (run 0x4A42 (regs [(0xA, 0x42)])).map (·.pc) = some 0x202 ∧
    (run 0x4A42 (regs [(0xA, 0x43)])).map (·.pc) = some 0x204 := by decide +kernel
-- SER-1, SER-2; SNER-1, SNER-2
theorem test_se_reg : (run 0x5120 (regs [(1, 7), (2, 7)])).map (·.pc) = some 0x204 ∧
    (run 0x5120 (regs [(1, 7), (2, 8)])).map (·.pc) = some 0x202 := by decide +kernel
theorem test_sne_reg : (run 0x9120 (regs [(1, 7), (2, 8)])).map (·.pc) = some 0x204 ∧
    (run 0x9120 (regs [(1, 7), (2, 7)])).map (·.pc) = some 0x202 := by decide +kernel
-- JPV0-2, JPV0-3
theorem test_jp_v0 : (run 0xBFFF (regs [(0, 0xFF)])).map (·.pc) = some 0x10FE ∧
    (run 0xB2FF (regs [(0, 1), (2, 0x77)])).map (·.pc) = some 0x300 := by decide +kernel
-- LD-1; ADDI-1, ADDI-2; LDR-1
theorem test_ld_imm : alu 0xA (run 0x6A42 State.reset) = some (0x202, 0x42, 0) := by decide +kernel
theorem test_add_imm : alu 0 (run 0x7001 (regs [(0, 0xFF), (vf, 1)])) = some (0x202, 0, 1) ∧
    alu vf (run 0x7F01 (regs [(vf, 0xFF)])) = some (0x202, 0, 0) := by decide +kernel
theorem test_ld_reg : alu 1 (run 0x8120 (regs [(2, 0x55)])) = some (0x202, 0x55, 0) := by decide +kernel
-- OR-1, AND-1, XOR-1
theorem test_or : alu 1 (run 0x8121 (regs [(1, 0x0F), (2, 0xF0), (vf, 1)])) = some (0x202, 0xFF, 1) := by decide +kernel
theorem test_and : alu 1 (run 0x8122 (regs [(1, 0x3C), (2, 0x0F), (vf, 1)])) = some (0x202, 0x0C, 1) := by decide +kernel
theorem test_xor : alu 1 (run 0x8123 (regs [(1, 0xFF), (2, 0x0F), (vf, 1)])) = some (0x202, 0xF0, 1) := by decide +kernel
-- ADD-1 (S1), ADD-2; ADD-5
theorem test_add : alu 0 (run 0x8014 (regs [(0, 0xFF), (1, 2)])) = some (0x202, 1, 1) ∧
    alu 0 (run 0x8014 (regs [(0, 0x80), (1, 0x7F), (vf, 1)])) = some (0x202, 0xFF, 0) := by decide +kernel
theorem test_add_into_vf : alu vf (run 0x8F14 (regs [(vf, 0xF0), (1, 0x20)])) = some (0x202, 0x10, 0x10) := by
  decide +kernel
-- SUB-1 (S2), SUB-2; SUB-4, SUB-5
theorem test_sub : alu 0 (run 0x8015 (regs [(0, 5), (1, 9)])) = some (0x202, 0xFC, 0) ∧
    alu 0 (run 0x8015 (regs [(0, 7), (1, 7)])) = some (0x202, 0, 1) := by decide +kernel
theorem test_sub_vf : alu vf (run 0x8F15 (regs [(vf, 3), (1, 5)])) = some (0x202, 0xFE, 0xFE) ∧
    alu 0 (run 0x80F5 (regs [(0, 5), (vf, 9)])) = some (0x202, 0xFC, 0) := by decide +kernel
-- SHR-1 (S3), SHR-2, SHR-3
theorem test_shr : alu 0 (run 0x8006 (regs [(0, 3)])) = some (0x202, 1, 1) ∧
    alu 0 (run 0x80A6 (regs [(0, 4), (0xA, 0xFF), (vf, 1)])) = some (0x202, 2, 0) := by decide +kernel
theorem test_shr_vf : alu vf (run 0x8F06 (regs [(vf, 5)])) = some (0x202, 2, 2) := by decide +kernel
-- SUBN-1, SUBN-2; SUBN-4
theorem test_subn : alu 0 (run 0x8017 (regs [(0, 5), (1, 9)])) = some (0x202, 4, 1) ∧
    alu 0 (run 0x8017 (regs [(0, 9), (1, 5)])) = some (0x202, 0xFC, 0) := by decide +kernel
theorem test_subn_vf : alu vf (run 0x8F17 (regs [(vf, 3), (1, 5)])) = some (0x202, 2, 2) := by decide +kernel
-- SHL-1, SHL-4; SHL-3
theorem test_shl : alu 0 (run 0x800E (regs [(0, 0x81)])) = some (0x202, 2, 1) ∧
    alu 0 (run 0x80AE (regs [(0, 0xFF)])) = some (0x202, 0xFE, 1) := by decide +kernel
theorem test_shl_vf : alu vf (run 0x8F0E (regs [(vf, 0x81)])) = some (0x202, 2, 2) := by decide +kernel
-- LDI-2
theorem test_ld_i : (run 0xAFFF { State.reset with i := 0xF123 }).map (fun t => (t.i, t.pc)) = some (0x0FFF, 0x202) := by
  decide +kernel
-- RND-1: whatever byte is drawn, the mask is applied to it
theorem test_rnd : (run 0xC30F State.reset).map (fun t => (t.getV 3, t.draws)) =
    some (Config.freeByte 0 &&& 0x0F, 1) := rfl

/-- The lit cells among those given. -/
def lit (l : List (Fin 64 × Fin 32)) (s : Option State) : Option (List Bool × Byte × Bool) :=
  s.map fun t => (l.map fun p => t.disp.pixel p.1 p.2, t.getV vf, t.dirty)

/-- `I = 0x300` with the given bytes there. -/
def sprite (s : State) (bytes : List Byte) : State := (s.setI 0x300).writeBytes 0x300 bytes

-- DRW-1 (S4), DRW-3
theorem test_drw_wraps : lit [(63, 31), (0, 31), (6, 31), (7, 31), (63, 0)]
    (run 0xD011 (sprite (regs [(0, 63), (1, 31)]) [0xFF])) = some ([true, true, true, false, false], 0, true) ∧
    lit [(63, 31), (63, 0), (0, 31)] (run 0xD012 (sprite (regs [(0, 63), (1, 31)]) [0x80, 0x80])) =
      some ([true, true, false], 0, true) := by decide +kernel
-- DRW-4 under both values of the parameter, DRW-5
theorem test_drw_collision : lit [(0, 0), (1, 0)]
    (run 0xD011 (sprite (State.reset.setDisp (Display.blank.setPixel 0 0 true)) [0x40])) =
      some ([true, true], 0, true) ∧
    lit [(0, 0), (1, 0)] (run 0xD011 (sprite (other.setDisp (Display.blank.setPixel 0 0 true)) [0x40])) =
      some ([true, true], 1, true) ∧
    lit [(0, 0), (1, 0)] (run 0xD011 (sprite (State.reset.setDisp (Display.blank.setPixel 0 0 true)) [0xC0])) =
      some ([false, true], 1, true) := by decide +kernel
-- SKP-1, SKP-2, SKP-3; SKNP-1, SKNP-2
theorem test_skp : (run 0xE59E ((regs [(5, 0x1A)]).setKey 0xA true)).map (·.pc) = some 0x204 ∧
    (run 0xE59E (regs [(5, 0x0A)])).map (·.pc) = some 0x202 := by decide +kernel
theorem test_sknp : (run 0xE5A1 ((regs [(5, 0x0A)]).setKey 0xA true)).map (·.pc) = some 0x202 ∧
    (run 0xE5A1 (regs [(5, 0x0A)])).map (·.pc) = some 0x204 := by decide +kernel
-- DT-1; DT-3; ST-1
theorem test_ld_vx_dt : alu 5 (run 0xF507 { State.reset with dt := 0x2A }) = some (0x202, 0x2A, 0) := by decide +kernel
theorem test_ld_dt_vx : (run 0xF515 (regs [(5, 0x3C)])).map (fun t => (t.dt, t.st)) = some (0x3C, 0) := by decide +kernel
theorem test_ld_st_vx : (run 0xF518 (regs [(5, 0x3C)])).map (fun t => (t.dt, t.st)) = some (0, 0x3C) := by decide +kernel
-- KW-1: the arming and the consuming STEP
theorem test_ld_vx_k : (run 0xF30A State.reset).map (fun t => (t.kw, t.pc)) = some (.armed, 0x200) ∧
    (run 0xF30A { State.reset with kw := .captured 7 }).map (fun t => (t.kw, t.pc, t.getV 3)) =
      some (.idle, 0x202, 7) := by decide +kernel
-- KW-2, KW-3: the edges that capture
theorem test_key : (({ State.reset with kw := .armed } : State).key 7 true).kw = .captured 7 ∧
    ((({ State.reset with kw := .armed } : State).setKey 4 true).key 4 true).kw = .armed ∧
    (({ State.reset with kw := .captured 2 } : State).key 9 true).kw = .captured 2 := by decide +kernel
-- AI-1, AI-2
theorem test_add_i : (run 0xF01E ((regs [(0, 1)]).setI 0x0FFF)).map (fun t => (t.i, t.getV vf)) = some (0x1000, 0) ∧
    (run 0xF01E ((regs [(0, 1)]).setI 0xFFFF)).map (·.i) = some 0 := by decide +kernel
-- LF-1, LF-4
theorem test_ld_f : (run 0xF029 (regs [(0, 0x0A)])).map (·.i) = some 0x32 ∧
    (run 0xF029 (regs [(0, 0xFF)])).map (·.i) = some 0x4FB := by decide +kernel
-- BCD-5, BCD-1; BCD-6, BCD-7
theorem test_ld_b : (run 0xF033 ((regs [(0, 123)]).setI 4093)).map
      (fun t => (t.readByte 4093, t.readByte 4094, t.readByte 4095)) = some (1, 2, 3) ∧
    (run 0xF033 ((regs [(0, 254)]).setI 0x300)).map (fun t => (t.readByte 0x300, t.readByte 0x301, t.readByte 0x302)) =
      some (2, 5, 4) := by decide +kernel
theorem test_ld_b_beyond : err 0xF033 ((regs [(0, 123)]).setI 4094) = some .outOfBoundsStore ∧
    err 0xF033 ((regs [(0, 123)]).setI 0xFFFF) = some .outOfBoundsStore := by decide +kernel
-- STM-1; STM-4
theorem test_ld_mem_vx : (run 0xF255 ((regs [(0, 1), (1, 2), (2, 3), (3, 4)]).setI 0x300)).map
    (fun t => ([0x300, 0x301, 0x302, 0x303].map t.readByte, t.i)) = some ([1, 2, 3, 0], 0x300) := by decide +kernel
theorem test_ld_mem_vx_beyond : err 0xF155 (State.reset.setI 4095) = some .outOfBoundsStore := by decide +kernel
-- LDM-2; LDM-4
theorem test_ld_vx_mem : (run 0xFF65 State.reset).map (fun t => ([0, 1, 4, 5, 14, 15].map t.getV, t.i)) =
    some ([0xF0, 0x90, 0xF0, 0x20, 0xF0, 0xF0], 0) := by decide +kernel
theorem test_ld_vx_mem_beyond : err 0xF165 (State.reset.setI 4095) = some .outOfBoundsLoad := by decide +kernel
-- F-1, F-2, F-4
theorem test_fetch_bounds : (run 0x1200 { State.reset with pc := 0xFFE }).map (·.pc) = some 0x200 ∧
    errOf (step { State.reset with pc := 0xFFF }) = some .outOfBoundsFetch ∧
    alu 0xA (run 0x6A42 { State.reset with pc := 0x201 }) = some (0x203, 0x42, 0) := by decide +kernel
-- RET-2: precise, only DIRTY changes
theorem test_error_is_precise : ({ State.reset.withFetchWord 16 0x00EE with dirty := true } : State).afterStep =
    State.reset.withFetchWord 16 0x00EE := by decide +kernel
-- TK-1
theorem test_tick : (({ State.reset with dt := 2, st := 1 } : State).tick).tick.dt = 0 ∧
    (({ State.reset with dt := 2, st := 1 } : State).tick).tick.st = 0 := by decide +kernel
-- RS-1
theorem test_reset_memory : [0, 79, 80, 511, 512].map State.reset.readByte = [0xF0, 0x80, 0, 0, 0] := by decide +kernel
-- RS-5 and log 3: RESET keeps nothing of the old machine, and no byte drawn before it is drawn again
theorem test_reset_keeps_the_draw_count :
    (transact (.reset [0x12]) { config := Config.standard, machine := some { State.reset with draws := 3, dt := 9 } }).map
      (fun r => r.2.machine.map fun t => (t.draws, t.dt, t.readByte 512)) = some (some (3, 0, 0x12)) := by decide +kernel
-- RS-5, and R263 with log 26: the record of the first error stays over later transactions and is gone after RESET
theorem test_first_error_is_sticky :
    (runSchedule [.reset [0x00, 0xEE], .step, .tick, .step] { config := Config.standard, machine := none }).map
      (fun r => (r.1, r.2.firstError)) =
        some ([.ok, .err .stackUnderflow, .silent, .err .stackUnderflow], some .stackUnderflow) ∧
    (runSchedule [.reset [0x00, 0xEE], .step, .reset [0x12, 0x00], .step]
      { config := Config.standard, machine := none }).map (fun r => r.2.firstError) = some none := by decide +kernel

/-! ### Witnesses: for every obligation with hypotheses, a state and operands that meet all of them -/

/-- The state an execute stage leaves, where it completes. -/
def after (i : Instr) (s : State) : State :=
  match exec i s with
  | .next t => t
  | _ => s

/-- The state a STEP leaves, where it completes. -/
def stepped (s : State) : State :=
  match step s with
  | .next t => t
  | _ => s

/-- The reset state with the instruction `RET` where it fetches: its next STEP faults. -/
def atRet : State := State.reset.withFetchWord 16 0x00EE

/-- The reset state with `LD V3,K` where it fetches. -/
def atKeyWait : State := State.reset.withFetchWord 16 0xF30A

/-- The reset state with `JP 0x200` where it fetches. -/
def atSelfJump : State := State.reset.withFetchWord 16 0x1200

/-- A state with a one-byte sprite at `I`. -/
def atSprite : State := sprite (regs [(0, 63), (1, 31)]) [0xFF]

theorem witness_DecodeOfEncodeIsTheInstruction : (Instr.sys 0x123#12).wf = true ∧ (Instr.drw 15 15 15).wf = true := by
  decide
theorem witness_EncodeOfDecodeIsTheCanonicalWord : decodeWord 0x80A6#16 = .ok (.shr 0x0#4) ∧
    decodeWord 0xD125#16 = .ok (.drw 0x1#4 0x2#4 0x5#4) := by decide
theorem witness_RowSelectedExactlyWhenDecoded :
    ({ mnemonic := "CLS", mask := 0xFFFF#16, pattern := 0x00E0#16 } : OpcodeRow) ∈ opcodeRows := by decide
theorem witness_StepRunsTheDecodedInstruction : ∃ s : State, ∃ i, s.pc.toNat ≤ 4094 ∧ s.pc.toNat = 4094 ∧
    decode [s.readByte s.pc.toNat, s.readByte (s.pc.toNat + 1)] = .ok (i, []) :=
  ⟨({ State.reset with pc := 4094 } : State).withFetchWord 16 0x1200, .jp 0x200, by decide +kernel⟩
theorem witness_PlacedWordRunsNext : Memory.wf State.reset.config State.reset.mem = true ∧
    decodeTableWord 16 0xD125 = some (.drw 1 2 5) := by decide +kernel
theorem witness_FetchFailsExactlyBeyondMemory :
    ({ State.reset with pc := 4094 } : State).pc.toNat ≤ 4094 ∧
    errOf (step ({ State.reset with pc := 4095 } : State)) = some .outOfBoundsFetch := by decide +kernel
theorem witness_ErrorsArePreciseAndPersistent : step atRet = .fault .stackUnderflow ∧
    ∃ responses sys u, (∀ image, Transaction.reset image ∉ [.tick, .key 1 true, .step]) ∧
      runSchedule [.tick, .key 1 true, .step]
        { config := atRet.config, machine := some atRet.afterStep, firstError := some .stackUnderflow } =
        some (responses, sys) ∧ sys.machine = some u :=
  ⟨rfl, [.silent, .silent, .err .stackUnderflow], _, _, by simp, rfl, rfl⟩
theorem witness_ProgramCounterAfterEveryInstruction : exec (.jp 0x300) State.reset = .next (State.reset.jump 0x300) ∧
    step atRet = .fault .stackUnderflow := ⟨rfl, rfl⟩
theorem witness_EveryInstructionWritesOnlyItsRow : Memory.wf State.reset.config State.reset.mem = true ∧
    exec (.ldB 0) State.reset = .next (after (.ldB 0) State.reset) := ⟨by decide +kernel, rfl⟩

/-- An armed key wait meets the invariant, and its STEP completes. -/
theorem witness_StepKeepsTheInvariant : ∃ s t : State, s.Inv ∧ s.kw = .armed ∧ s.sp.val = 1 ∧ step s = .next t :=
  ⟨{ atKeyWait with kw := .armed, sp := 1, stack := State.reset.stack.set 0 0x1000 }, _,
    ⟨by decide +kernel, by decide, by decide +kernel, fun _ => ⟨3, rfl⟩⟩, rfl, rfl, rfl⟩
theorem witness_EveryScheduleKeepsTheInvariant : ({ config := Config.standard, machine := none } : System).Inv ∧
    ∃ responses sys', runSchedule [.reset [0x12, 0x00], .step] { config := Config.standard, machine := none } =
      some (responses, sys') := ⟨fun _ h => (nomatch h), [.ok, .ok], _, rfl⟩
theorem witness_SoundTimerAndDirtyAreNeverRead : step atSelfJump = .next (stepped atSelfJump) ∧
    step atRet = .fault .stackUnderflow := ⟨rfl, rfl⟩
theorem witness_DeadStackEntriesAreNeverRead :
    (∀ j : Fin 16, j.val < (1 : Fin 17).val →
      ((Vector.replicate 16 (7 : Word)).set 0 5)[j] = ((Vector.replicate 16 (0 : Word)).set 0 5)[j]) ∧
    step { atRet with sp := 1, stack := (Vector.replicate 16 0).set 0 5 } =
      .next (stepped { atRet with sp := 1, stack := (Vector.replicate 16 0).set 0 5 }) ∧
    step atRet = .fault .stackUnderflow := ⟨by decide, rfl, rfl⟩
theorem witness_SysFollowsItsPolicy : State.reset.config.sysPolicy = .nop ∧ other.config.sysPolicy = .illegal :=
  ⟨rfl, rfl⟩
theorem witness_CallPushesTheReturnAddress : ({ State.reset with sp := 15 } : State).sp.val < 16 ∧
    ({ State.reset with sp := 16 } : State).sp.val = 16 := by decide
theorem witness_ReturnPopsTheTopEntry : ({ State.reset with sp := 1 } : State).sp.val ≠ 0 ∧
    ({ State.reset with sp := 16 } : State).sp.val ≠ 0 ∧ State.reset.sp.val = 0 := by decide
theorem witness_ReturnResumesAfterTheCall : ∃ t u : State, exec (.call 0x300) { State.reset with sp := 15 } = .next t ∧
    u.sp = t.sp ∧ u.stack = t.stack ∧ u.pc = 0x456 :=
  ⟨_, { after (.call 0x300) { State.reset with sp := 15 } with pc := 0x456 }, rfl, rfl, rfl, rfl⟩
theorem witness_AddSubtractSetTheFlag : (0 : Nibble) ≠ vf ∧ (14 : Nibble) ≠ vf := by decide
theorem witness_ShiftsMoveOneBitIntoTheFlag : (14 : Nibble) ≠ vf := by decide
theorem witness_FlagWritersWithOperandVf : (14 : Nibble) ≠ vf := by decide
theorem witness_RandomByteUnderItsMask : (0x7F : Byte).getLsbD 7 = false := by decide
/-- `n = 0`; the last byte of memory; one byte further (DRW-7, DRW-9, DRW-8). -/
theorem witness_DrawXorsTheWrappedSprite : (0 : Nibble).toNat = 0 ∧
    (State.reset.setI 0xFFE).i.toNat + (2 : Nibble).toNat - 1 < 4096 ∧
    1 ≤ (3 : Nibble).toNat ∧ 4096 ≤ (State.reset.setI 0xFFE).i.toNat + (3 : Nibble).toNat - 1 := by decide
theorem witness_DrawSetsTheCollisionFlag : exec (.drw 0 1 1) atSprite = .next (after (.drw 0 1 1) atSprite) := by rfl
theorem witness_DrawingTwiceRestoresTheDisplay : ∃ t u v : State, exec (.drw 0 1 1) atSprite = .next t ∧
    u.disp = t.disp ∧ u.getV 0 = atSprite.getV 0 ∧ u.getV 1 = atSprite.getV 1 ∧ u.i = atSprite.i ∧
    (∀ r < (1 : Nibble).toNat, u.readByte (atSprite.i.toNat + r) = atSprite.readByte (atSprite.i.toNat + r)) ∧
    exec (.drw 0 1 1) u = .next v :=
  ⟨_, after (.drw 0 1 1) atSprite, _, rfl, rfl, rfl, rfl, rfl, fun _ _ => rfl, rfl⟩
/-- The premises of (b) on the blank display and of (c) on the display the sprite was drawn on. -/
theorem witness_CollisionUnderBothReadings :
    exec (.drw 0 1 1) atSprite = .next (after (.drw 0 1 1) atSprite) ∧
    (∀ r < (1 : Nibble).toNat, ∀ c < 8,
      atSprite.disp.pixel (wrapColumn (atSprite.getV 0) c) (wrapRow (atSprite.getV 1) r) = false) ∧
    (∃ r < (1 : Nibble).toNat, ∃ c < 8, (atSprite.readByte (atSprite.i.toNat + r)).getLsbD (7 - c) = true) ∧
    (∀ r < (1 : Nibble).toNat, ∀ c < 8, (atSprite.readByte (atSprite.i.toNat + r)).getLsbD (7 - c) = true →
      (after (.drw 0 1 1) atSprite).disp.pixel (wrapColumn (atSprite.getV 0) c) (wrapRow (atSprite.getV 1) r) = true) :=
  ⟨rfl, by decide +kernel, by decide +kernel, by decide +kernel⟩
theorem witness_KeyWaitArmsWaitsAndConsumes : State.reset.kw = .idle ∧ (State.reset.setKw .armed).kw = .armed ∧
    (State.reset.setKw (.captured 15)).kw = .captured 15 := ⟨rfl, rfl, rfl⟩
theorem witness_KeyWaitCompletesAfterOneEdge : atKeyWait.fetchInstr = .ok (.ldVxK 3) ∧ atKeyWait.kw = .idle ∧
    atKeyWait.keyDown 15 = false := ⟨rfl, rfl, rfl⟩
/-- `I = 4093` and `I = 4094` (BCD-5, BCD-6). -/
theorem witness_BcdStoresTheThreeDigits : Memory.wf State.reset.config State.reset.mem = true ∧
    (State.reset.setI 4093).i.toNat + 2 < 4096 ∧ 4096 ≤ (State.reset.setI 4094).i.toNat + 2 := by decide +kernel
/-- `x = 15` at `I = 4080` and `I = 4081` (STM-5, STM-6). -/
theorem witness_BlockStoreCopiesTheRegisters : Memory.wf State.reset.config State.reset.mem = true ∧
    (State.reset.setI 4080).i.toNat + (15 : Nibble).toNat < 4096 ∧
    4096 ≤ (State.reset.setI 4081).i.toNat + (15 : Nibble).toNat := by decide +kernel
/-- `x = 0` at `I = 4095` and `I = 4096` (LDM-3, LDM-5). -/
theorem witness_BlockLoadFillsTheRegisters : (State.reset.setI 4095).i.toNat + (0 : Nibble).toNat < 4096 ∧
    4096 ≤ (State.reset.setI 4096).i.toNat + (0 : Nibble).toNat := by decide
theorem witness_StoredBlockLoadsBack : ∃ t u v : State, Memory.wf State.reset.config State.reset.mem = true ∧
    exec (.ldMemVx 15) State.reset = .next t ∧ u.i = State.reset.i ∧ (∀ a, u.readByte a = t.readByte a) ∧
    exec (.ldVxMem 15) u = .next v :=
  ⟨_, after (.ldMemVx 15) State.reset, _, by decide +kernel, rfl, rfl, fun _ => rfl, rfl⟩
/-- P6: the store lands on the next word. -/
theorem witness_StoreIsSeenByTheNextFetch : ∃ t : State, Memory.wf State.reset.config State.reset.mem = true ∧
    exec (.ldMemVx 1) (State.reset.setI 0x202) = .next t ∧
    t.pc.toNat = (State.reset.setI 0x202).i.toNat + (0 : Nibble).toNat ∧ (0 : Nibble).toNat < (1 : Nibble).toNat :=
  ⟨_, by decide +kernel, rfl, by decide +kernel, by decide⟩
theorem witness_ResetLoadsTheImage : 3584 < (List.replicate 3585 (0 : Byte)).length ∧
    (List.replicate 3584 (0xAA : Byte)).length ≤ 3584 := by
  rw [List.length_replicate, List.length_replicate]; decide
theorem witness_ResetReplacesTheMachine : (∃ t, State.load Config.standard [0x12] = .next t) ∧
    State.load Config.standard (List.replicate 3585 0) = .fault .loadError :=
  ⟨⟨_, rfl⟩, if_pos (by rw [List.length_replicate]; decide)⟩
theorem witness_SettledMachineStaysSettled : atSelfJump.Settled := by
  refine ⟨by decide +kernel, by decide +kernel, by decide +kernel, rfl⟩
theorem witness_HostMovesNeverFail :
    ({ config := atRet.config, machine := some atRet } : System).machine ≠ none ∧
    ({ config := atRet.config, machine := some atRet } : System).firstError = none ∧
    ∀ t ∈ [Transaction.tick, .key 15 true, .dirtyQuery, .pixelQuery 63 31],
      t ≠ .step ∧ ∀ image, t ≠ .reset image := by simp
/-- A faulted system: RET on the empty stack, recorded, then TICK and STEP. -/
theorem witness_FirstErrorIsStickyUntilReset : ∃ responses sys',
    (∀ image, Transaction.reset image ∉ [.tick, .step]) ∧
    runSchedule [.tick, .step] { config := atRet.config, machine := some atRet, firstError := some .stackUnderflow } =
      some (responses, sys') := ⟨[.silent, .err .stackUnderflow], _, by simp, rfl⟩

end Sys2Proof.Tests
end

section
/-! SUPPORT. What the execute stage can do, said once: the instructions that test something before they complete, the
progress of every instruction, and the one shape of every change (10_state.md R37). -/

namespace Sys2Proof.Machine

variable {s t : State} {w : Writes}

/-! ### The instructions that can fail or branch -/

theorem exec_sys_eq_next_iff (nnn : Addr12) :
    exec (.sys nnn) s = .next t ↔ s.config.sysPolicy = .nop ∧ t = s.advance := by
  simp only [exec, execSys]
  cases s.config.sysPolicy <;> simp [raise, eq_comm]

theorem exec_ret_eq_next_iff : exec .ret s = .next t ↔ ∃ _ : s.sp.val ≠ 0,
    t = ({ s with sp := ⟨s.sp.val - 1, by omega⟩ } : State).jump (s.stack[s.sp.val - 1]'(by omega)) := by
  simp only [exec, execRet]
  cases hp : s.pop with
  | error e => simp [raise, (s.pop_eq_error_iff e).1 hp]
  | ok p => obtain ⟨h, rfl⟩ := (s.pop_eq_ok_iff p).1 hp; simp [h, eq_comm]

theorem exec_call_eq_next_iff (nnn : Addr12) : exec (.call nnn) s = .next t ↔ ∃ h : s.sp.val < 16,
    t = ({ s with stack := s.stack.set s.sp.val (s.pc + 2) h, sp := ⟨s.sp.val + 1, by omega⟩ } : State).jump
      (zextAddr nnn) := by
  simp only [exec, execCall]
  cases hp : s.push (s.pc + 2) with
  | error e =>
    have hsp : ¬ s.sp.val < 16 := by rw [((s.push_eq_error_iff _ e).1 hp).1]; decide
    exact ⟨nofun, fun ⟨h, _⟩ => absurd h hsp⟩
  | ok p => obtain ⟨h, rfl⟩ := (s.push_eq_ok_iff p _).1 hp; simp [h, eq_comm]

theorem exec_drw_eq_next_iff (x y n : Nibble) : exec (.drw x y n) s = .next t ↔
    ∃ rows, s.memRead .outOfBoundsLoad s.i n.toNat = .ok rows ∧
      let drawn := drawSprite s.config.drwCollisionGated s.disp (spritePixels (s.getV x) (s.getV y) rows)
      t = (((s.setDisp drawn.2).setV vf (flagByte drawn.1)).markDirty).advance := by
  simp only [exec, execDrw]
  cases s.memRead .outOfBoundsLoad s.i n.toNat <;> simp [raise, eq_comm]

/-- The three cases of 44_keypad.md R216. -/
theorem exec_ldVxK_eq_next_iff (x : Nibble) : exec (.ldVxK x) s = .next t ↔
    (s.kw = .idle ∧ t = s.setKw .armed) ∨ (s.kw = .armed ∧ t = s) ∨
      ∃ k, s.kw = .captured k ∧ t = ((s.setV x (zextKey k)).setKw .idle).advance := by
  simp only [exec, execLdVxK]
  cases s.kw <;> simp [eq_comm]

theorem exec_ldB_eq_next_iff (x : Nibble) : exec (.ldB x) s = .next t ↔
    s.i.toNat + 3 ≤ 4096 ∧ t = (s.writeBytes s.i.toNat (bcdDigits (s.getV x))).advance := by
  simp only [exec, execLdB]
  constructor
  · intro h
    split at h
    · cases h
    · rename_i m hm
      obtain ⟨hb, rfl⟩ := (s.memWrite_eq_ok_iff m _ _).1 hm
      cases h
      exact ⟨hb.resolve_left (by simp [bcdDigits]), rfl⟩
  · rintro ⟨hb, rfl⟩
    rw [(s.memWrite_eq_ok_iff _ _ _).2 ⟨.inr hb, rfl⟩]

theorem exec_ldMemVx_eq_next_iff (x : Nibble) : exec (.ldMemVx x) s = .next t ↔
    s.i.toNat + blockCount x ≤ 4096 ∧ t = (s.writeBytes s.i.toNat (s.blockValues x)).advance := by
  rw [show blockCount x = (s.blockValues x).length from (s.blockValues_length x).symm]
  simp only [exec, execLdMemVx]
  constructor
  · intro h
    split at h
    · cases h
    · rename_i m hm
      obtain ⟨hb, rfl⟩ := (s.memWrite_eq_ok_iff m _ _).1 hm
      cases h
      exact ⟨hb.resolve_left (by simp), rfl⟩
  · rintro ⟨hb, rfl⟩
    rw [(s.memWrite_eq_ok_iff _ _ _).2 ⟨.inr hb, rfl⟩]

theorem exec_ldVxMem_eq_next_iff (x : Nibble) : exec (.ldVxMem x) s = .next t ↔
    s.i.toNat + blockCount x ≤ 4096 ∧
      t = (s.setVs 0 ((List.range (blockCount x)).map fun j => s.readByte (s.i.toNat + j))).advance := by
  simp only [exec, execLdVxMem]
  constructor
  · intro h
    split at h
    · cases h
    · rename_i l hl
      obtain ⟨hb, rfl⟩ := (s.memRead_eq_ok_iff _ _ _ _).1 hl
      cases h
      exact ⟨hb.resolve_left (by simp [blockCount]), rfl⟩
  · rintro ⟨hb, rfl⟩
    rw [(s.memRead_eq_ok_iff _ _ _ _).2 ⟨.inr hb, rfl⟩]

/-- An instruction completes or raises an error (60_exceptions.md R269). -/
theorem exec_next_or_fault (i : Instr) (s : State) : (∃ t, exec i s = .next t) ∨ ∃ e, exec i s = .fault e := by
  cases i
  case sys | ret | call | drw | ldB | ldMemVx | ldVxMem =>
    simp only [exec, execSys, execRet, execCall, execDrw, execLdB, execLdMemVx, execLdVxMem]
    split <;> simp [raise]
  case ldVxK x => simp only [exec, execLdVxK]; split <;> simp
  all_goals exact .inl ⟨_, rfl⟩

/-! ### STEP by its fetch -/

theorem step_eq_exec {i : Instr} (h : s.fetchInstr = .ok i) : step s = exec i s.clearDirty := by
  simp [step, h]

theorem step_eq_fault {e : Fault} (h : s.fetchInstr = .error e) : step s = .fault e := by
  simp [step, h, raise]

/-- STEP completes or raises an error. -/
theorem step_next_or_fault (s : State) : (∃ t, step s = .next t) ∨ ∃ e, step s = .fault e := by
  cases h : s.fetchInstr with
  | error e => exact .inr ⟨e, step_eq_fault h⟩
  | ok i => rw [step_eq_exec h]; exact exec_next_or_fault i _

/-! ### The frame of each operation -/

namespace Frame

theorem refl (w : Writes) (s : State) : Frame w s s := by
  constructor <;> intros <;> rfl

theorem jump (h : Frame w s t) (a : Word) : Frame w s (t.jump a) := { h with }

theorem advance (h : Frame w s t) : Frame w s t.advance := h.jump _

theorem skipIf (h : Frame w s t) (c : Bool) : Frame w s (t.skipIf c) := h.jump _

theorem setV (h : Frame w s t) {x : Nibble} (b : Byte) (hx : x ∈ w.regs) : Frame w s (t.setV x b) :=
  { h with
    regs := fun r hr => by rw [State.getV_setV, if_neg (ne_of_mem_of_not_mem hx hr).symm, h.regs r hr] }

theorem setFlagThenV (h : Frame w s t) (f : Byte) {x : Nibble} (b : Byte) (hf : vf ∈ w.regs) (hx : x ∈ w.regs) :
    Frame w s (t.setFlagThenV f x b) :=
  (h.setV f hf).setV b hx

theorem setVs (l : List Byte) : ∀ {t : State} {x : Nat}, Frame w s t →
    (∀ j < l.length, BitVec.ofNat 4 (x + j) ∈ w.regs) → Frame w s (t.setVs x l) := by
  induction l with
  | nil => exact fun h _ => h
  | cons b l ih =>
    intro t x h hx
    refine ih (h.setV b (hx 0 (by simp))) fun j hj => ?_
    rw [Nat.add_assoc, Nat.add_comm 1]
    exact hx (j + 1) (by simpa using hj)

theorem setI (h : Frame w s t) (a : Word) (hw : w.i = true) : Frame w s (t.setI a) :=
  { h with i := by simp [hw] }

theorem setDt (h : Frame w s t) (b : Byte) (hw : w.dt = true) : Frame w s (t.setDt b) :=
  { h with dt := by simp [hw] }

theorem setSt (h : Frame w s t) (b : Byte) (hw : w.st = true) : Frame w s (t.setSt b) :=
  { h with st := by simp [hw] }

theorem setKw (h : Frame w s t) (k : KeyWait) (hw : w.kw = true) : Frame w s (t.setKw k) :=
  { h with kw := by simp [hw] }

theorem setDisp (h : Frame w s t) (d : Display) (hw : w.disp = true) : Frame w s (t.setDisp d) :=
  { h with disp := by simp [hw] }

theorem markDirty (h : Frame w s t) (hw : w.dirty = true) : Frame w s t.markDirty :=
  { h with dirty := by simp [hw] }

theorem countDraw (h : Frame w s t) (hw : w.draws = true) : Frame w s t.countDraw :=
  { h with draws := by simp [hw] }

theorem setSp (h : Frame w s t) (n : Fin 17) (hw : w.sp = true) : Frame w s { t with sp := n } :=
  { h with sp := by simp [hw] }

theorem setEntry (h : Frame w s t) {j : Nat} (hj : j < 16) (a : Word) (hw : j ∈ w.entries) :
    Frame w s { t with stack := t.stack.set j a hj } :=
  { h with
    entries := fun k hk => by
      have hne : j ≠ k.val := fun e => hk (e ▸ hw)
      exact (Vector.getElem_set_ne hj k.isLt hne).trans (h.entries k hk) }

end Frame

/-! ### The one shape of every change -/

/-- `s` with its memory replaced. -/
def State.withMem (s : State) (m : Memory) : State := { s with mem := m }

/-- A block write changes memory and nothing else. -/
theorem State.writeBytes_withMem (l : List Byte) : ∀ (s : State) (a : Nat) (m : Memory),
    (s.writeBytes a l).withMem m = s.withMem m := by
  induction l with
  | nil => intros; rfl
  | cons b l ih => intro s a m; exact ih (s.writeByte a b) (a + 1) m

/-- `t` is `s` but for `pc` and what `w` names, whatever form memory has: with the memory put back the frame holds, and
memory is that of one block write through `I`, of no byte where `w` names none. -/
structure WritesOnly (w : Writes) (s t : State) : Prop where
  rest : Frame w s (t.withMem s.mem)
  mem : ∃ l : List Byte, w.bytes = s.addressesFromI l.length ∧ (l.length = 0 ∨ s.i.toNat + l.length ≤ 4096) ∧
    t.mem = (s.writeBytes s.i.toNat l).mem

namespace WritesOnly

/-- An instruction that stores nothing. -/
theorem of_frame (h : Frame w s t) (hm : t.mem = s.mem) (hw : w.bytes = []) : WritesOnly w s t :=
  ⟨by rw [← hm]; exact h, [], hw, .inl rfl, hm⟩

/-- An instruction that stores a block at `I` and goes on. -/
theorem of_store (l : List Byte) (hl : s.i.toNat + l.length ≤ 4096) (hw : w.bytes = s.addressesFromI l.length) :
    WritesOnly w s (s.writeBytes s.i.toNat l).advance :=
  ⟨by
    have hback : (s.writeBytes s.i.toNat l).advance.withMem s.mem = s.advance :=
      congrArg State.advance (State.writeBytes_withMem l s _ s.mem)
    rw [hback]; exact (Frame.refl w s).advance, l, hw, .inr hl, rfl⟩

/-- Memory in its canonical form keeps it. -/
theorem memory_wf (h : WritesOnly w s t) (hs : Memory.wf s.config s.mem = true) : Memory.wf t.config t.mem = true := by
  have hc : t.config = s.config := h.rest.config
  obtain ⟨l, -, hl, hm⟩ := h.mem
  rw [hc, hm]
  rcases hl with hl | hl
  · rw [List.length_eq_zero_iff.1 hl]; exact hs
  · exact State.writeBytes_wf l s _ hl hs

/-- On memory in its canonical form the frame holds for memory too. -/
theorem frame (h : WritesOnly w s t) (hs : Memory.wf s.config s.mem = true) : Frame w s t := by
  have hc : t.config = s.config := h.rest.config
  obtain ⟨l, hw, -, hm⟩ := h.mem
  refine { h.rest with bytes := fun a ha => ?_ }
  rw [hw, mem_addressesFromI] at ha
  have hread : t.readByte a = (s.writeBytes s.i.toNat l).readByte a := by simp [State.readByte, hc, hm]
  rw [hread, State.readByte_writeBytes l s _ a (Memory.rising_of_wf hs), dif_neg ha]

end WritesOnly

/-- The write column of 10_state.md R37, instruction by instruction. -/
theorem exec_writesOnly (i : Instr) (h : exec i s = .next t) : WritesOnly (writesOf i s) s t := by
  have h0 : Frame (writesOf i s) s s := .refl _ _
  cases i
  case sys nnn =>
    obtain ⟨-, rfl⟩ := (exec_sys_eq_next_iff nnn).1 h
    exact .of_frame h0.advance rfl rfl
  case cls => cases h; exact .of_frame ((h0.setDisp _ rfl).markDirty rfl).advance rfl rfl
  case ret =>
    obtain ⟨hsp, rfl⟩ := exec_ret_eq_next_iff.1 h
    exact .of_frame ((h0.setSp _ rfl).jump _) rfl rfl
  case call nnn =>
    obtain ⟨hsp, rfl⟩ := (exec_call_eq_next_iff nnn).1 h
    exact .of_frame (((h0.setEntry hsp _ (List.mem_singleton.2 rfl)).setSp _ rfl).jump _) rfl rfl
  case jp | jpV0 => cases h; exact .of_frame (h0.jump _) rfl rfl
  case seImm | sneImm | seReg | sneReg | skp | sknp => cases h; exact .of_frame (h0.skipIf _) rfl rfl
  case ldImm | addImm | ldReg | orReg | andReg | xorReg | ldVxDt =>
    cases h; exact .of_frame (h0.setV _ (List.mem_singleton.2 rfl)).advance rfl rfl
  case addReg | sub | shr | subn | shl =>
    cases h; exact .of_frame (h0.setFlagThenV _ _ (by simp [writesOf]) (by simp [writesOf])).advance rfl rfl
  case ldI | addI | ldF => cases h; exact .of_frame (h0.setI _ rfl).advance rfl rfl
  case rnd => cases h; exact .of_frame ((h0.setV _ (List.mem_singleton.2 rfl)).countDraw rfl).advance rfl rfl
  case drw x y n =>
    obtain ⟨rows, -, rfl⟩ := (exec_drw_eq_next_iff x y n).1 h
    exact .of_frame (((h0.setDisp _ rfl).setV _ (List.mem_singleton.2 rfl)).markDirty rfl).advance rfl rfl
  case ldVxK x =>
    obtain ⟨-, rfl⟩ | ⟨-, rfl⟩ | ⟨k, -, rfl⟩ := (exec_ldVxK_eq_next_iff x).1 h
    · exact .of_frame (h0.setKw _ rfl) rfl rfl
    · exact .of_frame h0 rfl rfl
    · exact .of_frame ((h0.setV _ (List.mem_singleton.2 rfl)).setKw _ rfl).advance rfl rfl
  case ldDtVx => cases h; exact .of_frame (h0.setDt _ rfl).advance rfl rfl
  case ldStVx => cases h; exact .of_frame (h0.setSt _ rfl).advance rfl rfl
  case ldB x =>
    obtain ⟨hb, rfl⟩ := (exec_ldB_eq_next_iff x).1 h
    exact .of_store _ hb rfl
  case ldMemVx x =>
    obtain ⟨hb, rfl⟩ := (exec_ldMemVx_eq_next_iff x).1 h
    exact .of_store _ ((s.blockValues_length x).symm ▸ hb) (by simp [writesOf, blockCount])
  case ldVxMem x =>
    obtain ⟨-, rfl⟩ := (exec_ldVxMem_eq_next_iff x).1 h
    refine .of_frame (Frame.setVs _ h0 fun j hj => ?_).advance (by simp) rfl
    exact List.mem_map.2 ⟨j, by simpa using hj, by simp⟩

end Sys2Proof.Machine
end

section
/-! SUPPORT. The statements of 10_state.md: the frame, `pc` and DIRTY after an instruction, and the invariant. -/

namespace Sys2Proof.Machine

variable {s t : State} {i : Instr}

/-! ### The columns of the write matrix that one or two instructions have -/

theorem writesOf_dirty_eq_true_iff (i : Instr) (s : State) :
    (writesOf i s).dirty = true ↔ i = .cls ∨ ∃ x y n, i = .drw x y n := by
  cases i <;> simp [writesOf]

theorem writesOf_kw_eq_true_iff (i : Instr) (s : State) : (writesOf i s).kw = true ↔ ∃ x, i = .ldVxK x := by
  cases i <;> simp [writesOf]

theorem writesOf_sp_eq_true_iff (i : Instr) (s : State) :
    (writesOf i s).sp = true ↔ i = .ret ∨ ∃ nnn, i = .call nnn := by
  cases i <;> simp [writesOf]

theorem writesOf_entries_eq_nil (i : Instr) (s : State) (h : (writesOf i s).sp = false) :
    (writesOf i s).entries = [] := by
  cases i
  case call nnn => cases h
  all_goals rfl

/-- Only `RET` and `CALL` touch the call stack. -/
theorem exec_stack_unchanged (h : exec i s = .next t) (hsp : (writesOf i s).sp = false) :
    t.sp = s.sp ∧ ∀ j : Fin 16, t.stack[j] = s.stack[j] :=
  have hw := (exec_writesOnly i h).rest
  ⟨hw.sp hsp, fun j => hw.entries j (by simp [writesOf_entries_eq_nil i s hsp])⟩

/-- Settles O14: the frame of every instruction is its row, and canonical memory turns the block write into a frame. -/
theorem everyInstructionWritesOnlyItsRow : Obligations.EveryInstructionWritesOnlyItsRow :=
  fun i _ _ hwf h => (exec_writesOnly i h).frame hwf

/-! ### `pc` -/

/-- The table's entry for `RET` is the one below SP. -/
theorem pcAfter_ret (s : State) : pcAfter .ret s = s.stack[s.sp.val - 1]'(by omega) := by
  have hlt : s.sp.val - 1 < s.stack.toArray.size := by rw [Vector.size_toArray]; omega
  exact dif_pos hlt

theorem State.skipIf_pc_eq_ite (s : State) (c : Bool) : (s.skipIf c).pc = if c then s.pc + 4 else s.pc + 2 := by
  cases c <;> rfl

/-- The table of 10_state.md R24, instruction by instruction. -/
theorem exec_pc (i : Instr) (h : exec i s = .next t) : t.pc = pcAfter i s := by
  cases i
  case sys nnn => obtain ⟨-, rfl⟩ := (exec_sys_eq_next_iff nnn).1 h; rfl
  case ret =>
    obtain ⟨hsp, rfl⟩ := exec_ret_eq_next_iff.1 h
    exact (pcAfter_ret s).symm
  case call nnn => obtain ⟨-, rfl⟩ := (exec_call_eq_next_iff nnn).1 h; rfl
  case seImm | sneImm | seReg | sneReg | skp => cases h; rw [State.skipIf_pc_eq_ite]; simp [pcAfter]
  case sknp x =>
    cases h
    rw [State.skipIf_pc_eq_ite, pcAfter]
    cases s.keyDown (keyOf (s.getV x)) <;> rfl
  case drw x y n => obtain ⟨rows, -, rfl⟩ := (exec_drw_eq_next_iff x y n).1 h; rfl
  case ldVxK x =>
    obtain ⟨hk, rfl⟩ | ⟨hk, rfl⟩ | ⟨k, hk, rfl⟩ := (exec_ldVxK_eq_next_iff x).1 h <;> simp [pcAfter, hk]
  case ldB x => obtain ⟨-, rfl⟩ := (exec_ldB_eq_next_iff x).1 h; simp [pcAfter]
  case ldMemVx x => obtain ⟨-, rfl⟩ := (exec_ldMemVx_eq_next_iff x).1 h; simp [pcAfter]
  case ldVxMem x => obtain ⟨-, rfl⟩ := (exec_ldVxMem_eq_next_iff x).1 h; simp [pcAfter]
  all_goals cases h; rfl

/-- Settles O13: the table instruction by instruction; an error leaves `State.afterError`, whose `pc` is the old one. -/
theorem programCounterAfterEveryInstruction : Obligations.ProgramCounterAfterEveryInstruction :=
  ⟨fun i _ _ h => exec_pc i h, fun s e h => by rw [State.afterStep_of_fault s e h, State.afterError_pc]⟩

/-! ### DIRTY -/

/-- An instruction leaves DIRTY as it was or, `CLS` and `DRW`, sets it. -/
theorem exec_dirty (h : exec i s = .next t) : t.dirty = (s.dirty || (writesOf i s).dirty) := by
  cases hw : (writesOf i s).dirty
  · rw [Bool.or_false]; exact (exec_writesOnly i h).rest.dirty hw
  · obtain rfl | ⟨x, y, n, rfl⟩ := (writesOf_dirty_eq_true_iff i s).1 hw
    · cases h; simp
    · obtain ⟨rows, -, rfl⟩ := (exec_drw_eq_next_iff x y n).1 h; simp

/-- Settles O12: a completed STEP cleared DIRTY and ran one instruction, a failed one only cleared it. -/
theorem dirtyAfterStepExactlyWhenDisplayWritten : Obligations.DirtyAfterStepExactlyWhenDisplayWritten := by
  refine fun s => ⟨?_, State.tick_dirty s, fun k p => State.key_dirty s k p⟩
  obtain ⟨t, h⟩ | ⟨e, h⟩ := step_next_or_fault s
  · obtain ⟨i, hi, hx⟩ := step_next_cases s t h
    have hd : t.dirty = (writesOf i s.clearDirty).dirty := by simpa using exec_dirty hx
    rw [State.afterStep_of_next s t h, hd, writesOf_dirty_eq_true_iff]
    simp [h, hi]
  · simp [State.afterStep_of_fault s e h, h]

/-! ### The invariant -/

theorem zextAddr_toNat_lt (nnn : Addr12) : (zextAddr nnn).toNat < 4096 := by
  have := nnn.isLt
  simp [zextAddr]; omega

/-- 10_state.md R25: from an address that fetches, with live entries at most 4096, `pc` goes to at most 4350. -/
theorem pcAfter_le (i : Instr) (hpc : s.pc.toNat ≤ 4094) (hret : i = .ret → s.sp.val ≠ 0)
    (hstack : ∀ j : Fin 16, j.val < s.sp.val → s.stack[j].toNat ≤ 4096) : (pcAfter i s).toNat ≤ 4350 := by
  have h2 : (s.pc + 2).toNat ≤ 4350 := by bv_omega
  have h4 : (s.pc + 4).toNat ≤ 4350 := by bv_omega
  cases i
  case jp nnn | call nnn => have := zextAddr_toNat_lt nnn; simp only [pcAfter]; omega
  case jpV0 nnn =>
    have h1 := zextAddr_toNat_lt nnn
    have h3 := (s.getV 0).isLt
    simp only [pcAfter, zextByte, BitVec.toNat_add, BitVec.toNat_setWidth]
    omega
  case ret =>
    have hsp := hret rfl
    have htop := hstack ⟨s.sp.val - 1, by omega⟩ (show s.sp.val - 1 < s.sp.val by omega)
    rw [pcAfter_ret]
    exact Nat.le_trans htop (by decide)
  case seImm | sneImm | seReg | sneReg | skp | sknp => simp only [pcAfter]; split <;> assumption
  case ldVxK => simp only [pcAfter]; split <;> omega
  all_goals exact h2

/-- Every live entry stays at most 4096: `CALL` pushes `pc + 2`, `RET` only lowers SP (R25, R28). -/
theorem exec_stackBound (h : exec i s = .next t) (hpc : s.pc.toNat ≤ 4094)
    (hs : ∀ j : Fin 16, j.val < s.sp.val → s.stack[j].toNat ≤ 4096) :
    ∀ j : Fin 16, j.val < t.sp.val → t.stack[j].toNat ≤ 4096 := by
  intro j hj
  cases hw : (writesOf i s).sp
  · obtain ⟨hsp, hst⟩ := exec_stack_unchanged h hw
    rw [hst]; exact hs j (hsp ▸ hj)
  · obtain rfl | ⟨nnn, rfl⟩ := (writesOf_sp_eq_true_iff i s).1 hw
    · obtain ⟨hsp, rfl⟩ := exec_ret_eq_next_iff.1 h
      exact hs j (by simp at hj; omega)
    · obtain ⟨hsp, rfl⟩ := (exec_call_eq_next_iff nnn).1 h
      simp only [State.jump_sp, State.jump_stack, Fin.getElem_fin] at hj ⊢
      rw [Vector.getElem_set]
      split
      · bv_omega
      · exact hs j (by omega)

/-- A key wait that is in progress after an instruction is at an `LD Vx,K`: no other instruction starts one or runs
during one (44_keypad.md R210). -/
theorem exec_waiting (h : exec i s = .next t) (hi : s.fetchInstr = .ok i)
    (hs : s.kw ≠ .idle → ∃ x, s.fetchInstr = .ok (.ldVxK x)) (ht : t.kw ≠ .idle) :
    ∃ x, t.fetchInstr = .ok (.ldVxK x) := by
  have hK : ∃ x, i = .ldVxK x := by
    cases hw : (writesOf i s).kw
    · have hkw : t.kw = s.kw := (exec_writesOnly i h).rest.kw hw
      obtain ⟨x, hx⟩ := hs (hkw ▸ ht)
      exact ⟨x, Except.ok.inj (hi.symm.trans hx)⟩
    · exact (writesOf_kw_eq_true_iff i s).1 hw
  obtain ⟨x, rfl⟩ := hK
  obtain ⟨-, rfl⟩ | ⟨-, rfl⟩ | ⟨k, -, rfl⟩ := (exec_ldVxK_eq_next_iff x).1 h
  · exact ⟨x, hi⟩
  · exact ⟨x, hi⟩
  · exact absurd rfl ht

theorem State.Inv.clearDirty (h : s.Inv) : s.clearDirty.Inv := { h with }

/-- The execute stage of the fetched instruction keeps the invariant. -/
theorem State.Inv.of_exec (hs : s.Inv) (hi : s.fetchInstr = .ok i) (h : exec i s = .next t) : t.Inv := by
  have hpc := ((s.fetchInstr_eq_ok_iff i).1 hi).1
  have hret : i = .ret → s.sp.val ≠ 0 := by rintro rfl; exact (exec_ret_eq_next_iff.1 h).1
  exact {
    memory := (exec_writesOnly i h).memory_wf hs.memory
    pcBound := exec_pc i h ▸ pcAfter_le i hpc hret hs.stackBound
    stackBound := exec_stackBound h hpc hs.stackBound
    waiting := exec_waiting h hi hs.waiting }

/-- Settles O16: a STEP that completes cleared DIRTY and executed the instruction at `pc`. -/
theorem stepKeepsTheInvariant : Obligations.StepKeepsTheInvariant := by
  intro s t hs h
  obtain ⟨i, hi, hx⟩ := step_next_cases s t h
  exact hs.clearDirty.of_exec (s.fetchInstr_clearDirty ▸ hi) hx

/-- Settles O15: memory is empty, `pc` is 512, the stack is empty and no key wait is in progress. -/
theorem resetMeetsTheInvariant : Obligations.ResetMeetsTheInvariant where
  memory := rfl
  pcBound := by decide
  stackBound := fun _ hj => absurd hj (Nat.not_lt_zero _)
  waiting := fun h => absurd rfl h

end Sys2Proof.Machine
end

section
/-! SUPPORT. What no instruction reads: ST, and the stack entries at SP and above (10_state.md R27, R28). The execute
stage commutes with any change to them, so two runs that differ only there go the same way. -/

namespace Sys2Proof.Machine

variable {s t : State} {i : Instr} {entries : Vector Word 16}

/-- `s` with another sound timer and other stack entries. -/
def State.withUnread (s : State) (v : Byte) (entries : Vector Word 16) : State := { s with st := v, stack := entries }

/-- A result with its next state changed. -/
def mapNext (f : State → State) : Result → Result
  | .next t => .next (f t)
  | .fault e => .fault e
  | .refused r => .refused r

/-- The sound timer that an instruction executed on `s` leaves where it found `v`. -/
def soundAfter (i : Instr) (s : State) (v : Byte) : Byte :=
  match i with
  | .ldStVx x => s.getV x
  | _ => v

/-- The stack entries that an instruction executed on `s` leaves where it found `entries`. -/
def entriesAfter (i : Instr) (s : State) (entries : Vector Word 16) : Vector Word 16 :=
  match i with
  | .call _ => entries.setIfInBounds s.sp.val (s.pc + 2)
  | _ => entries

/-- `s` and the entries agree on what is live. -/
def State.LiveEntriesAre (s : State) (entries : Vector Word 16) : Prop :=
  ∀ j : Fin 16, j.val < s.sp.val → entries[j] = s.stack[j]

theorem State.writeBytes_withUnread (l : List Byte) (v : Byte) : ∀ (s : State) (a : Nat),
    (s.withUnread v entries).writeBytes a l = (s.writeBytes a l).withUnread v entries := by
  induction l with
  | nil => intros; rfl
  | cons b l ih => intro s a; exact ih (s.writeByte a b) (a + 1)

theorem State.setVs_withUnread (l : List Byte) (v : Byte) : ∀ (s : State) (x : Nat),
    (s.withUnread v entries).setVs x l = (s.setVs x l).withUnread v entries := by
  induction l with
  | nil => intros; rfl
  | cons b l ih => intro s x; exact ih (s.setV (BitVec.ofNat 4 x) b) (x + 1)

section
variable (s : State) (v : Byte) (entries : Vector Word 16)
@[simp] theorem State.withUnread_i : (s.withUnread v entries).i = s.i := rfl
@[simp] theorem State.withUnread_pc : (s.withUnread v entries).pc = s.pc := rfl
@[simp] theorem State.withUnread_kw : (s.withUnread v entries).kw = s.kw := rfl
@[simp] theorem State.withUnread_config : (s.withUnread v entries).config = s.config := rfl
@[simp] theorem State.getV_withUnread (r : Nibble) : (s.withUnread v entries).getV r = s.getV r := rfl
@[simp] theorem State.blockValues_withUnread (x : Nibble) :
    (s.withUnread v entries).blockValues x = s.blockValues x := rfl
@[simp] theorem State.fetchInstr_withUnread : (s.withUnread v entries).fetchInstr = s.fetchInstr := rfl
@[simp] theorem State.memRead_withUnread (e : Fault) (a : Word) (n : Nat) :
    (s.withUnread v entries).memRead e a n = s.memRead e a n := rfl
end

theorem State.memWrite_withUnread (s : State) (v : Byte) (entries : Vector Word 16) (a : Word) (l : List Byte) :
    (s.withUnread v entries).memWrite a l = (s.memWrite a l).map fun t => t.withUnread v entries := by
  unfold State.memWrite
  rw [State.writeBytes_withUnread]
  cases outOfBounds a.toNat l.length <;> rfl

/-- `RET` reads the top entry, which is live. -/
theorem State.pop_withUnread (v : Byte) (hlive : s.LiveEntriesAre entries) : (s.withUnread v entries).pop =
    s.pop.map fun p => (p.1, p.2.withUnread v entries) := by
  unfold State.pop
  by_cases h : s.sp.val = 0
  · rw [dif_pos h, dif_pos (show (s.withUnread v entries).sp.val = 0 from h)]; rfl
  · rw [dif_neg h, dif_neg (show ¬ (s.withUnread v entries).sp.val = 0 from h)]
    have htop : entries[s.sp.val - 1]'(by omega) = s.stack[s.sp.val - 1]'(by omega) :=
      hlive ⟨s.sp.val - 1, by omega⟩ (show s.sp.val - 1 < s.sp.val by omega)
    exact congrArg (fun top => Except.ok (top, _)) htop

/-- `CALL` overwrites a dead entry. -/
theorem State.push_withUnread (s : State) (v : Byte) (entries : Vector Word 16) (a : Word) :
    (s.withUnread v entries).push a =
      (s.push a).map fun t => t.withUnread v (entries.setIfInBounds s.sp.val a) := by
  unfold State.push
  by_cases h : s.sp.val < 16
  · rw [dif_pos h, dif_pos (show (s.withUnread v entries).sp.val < 16 from h)]
    have hset : entries.set s.sp.val a h = entries.setIfInBounds s.sp.val a := by
      simp [Vector.setIfInBounds, Vector.set, Array.setIfInBounds, h]
    rw [← hset]; rfl
  · rw [dif_neg h, dif_neg (show ¬ (s.withUnread v entries).sp.val < 16 from h)]; rfl

/-- The execute stage on a state with ST and dead stack entries changed: `RET` reads a live entry, `CALL` and
`LD ST,Vx` write what they do not read, and no other instruction looks. -/
theorem exec_withUnread (i : Instr) (v : Byte) (hlive : s.LiveEntriesAre entries) : exec i (s.withUnread v entries) =
    mapNext (fun t => t.withUnread (soundAfter i s v) (entriesAfter i s entries)) (exec i s) := by
  cases i
  case sys nnn =>
    simp only [exec, execSys, State.withUnread_config]
    cases s.config.sysPolicy <;> rfl
  case ret =>
    simp only [exec, execRet, State.pop_withUnread v hlive]
    cases s.pop <;> rfl
  case call nnn =>
    simp only [exec, execCall, State.withUnread_pc, State.push_withUnread]
    cases s.push (s.pc + 2) <;> rfl
  case drw x y n =>
    simp only [exec, execDrw, State.memRead_withUnread, State.withUnread_i]
    cases s.memRead .outOfBoundsLoad s.i n.toNat <;> rfl
  case ldVxK x =>
    simp only [exec, execLdVxK, State.withUnread_kw]
    cases s.kw <;> rfl
  case ldB x =>
    simp only [exec, execLdB, State.memWrite_withUnread, State.withUnread_i, State.getV_withUnread]
    cases s.memWrite s.i (bcdDigits (s.getV x)) <;> rfl
  case ldMemVx x =>
    simp only [exec, execLdMemVx, State.memWrite_withUnread, State.withUnread_i, State.blockValues_withUnread]
    cases s.memWrite s.i (s.blockValues x) <;> rfl
  case ldVxMem x =>
    simp only [exec, execLdVxMem, State.memRead_withUnread, State.withUnread_i, State.setVs_withUnread]
    cases s.memRead .outOfBoundsLoad s.i (blockCount x) <;> rfl
  all_goals rfl

/-- What an instruction leaves in ST and on the stack: `exec_withUnread` where nothing is changed. -/
theorem exec_eq_withUnread (h : exec i s = .next t) :
    t = t.withUnread (soundAfter i s s.st) (entriesAfter i s s.stack) := by
  have := exec_withUnread (entries := s.stack) i s.st fun _ _ => rfl
  rw [show s.withUnread s.st s.stack = s from rfl, h] at this
  exact Host.Outcome.next.inj this

/-- Entries that agreed on what was live agree on what is live afterwards. -/
theorem entriesAfter_live (h : exec i s = .next t) (hlive : s.LiveEntriesAre entries) :
    t.LiveEntriesAre (entriesAfter i s entries) := by
  intro j hj
  have hstack : t.stack = entriesAfter i s s.stack := congrArg State.stack (exec_eq_withUnread h)
  rw [hstack]
  cases hw : (writesOf i s).sp
  · have hsp : t.sp = s.sp := (exec_stack_unchanged h hw).1
    cases i
    case call nnn => cases hw
    all_goals exact hlive j (hsp ▸ hj)
  · obtain rfl | ⟨nnn, rfl⟩ := (writesOf_sp_eq_true_iff i s).1 hw
    · obtain ⟨hsp, rfl⟩ := exec_ret_eq_next_iff.1 h
      exact hlive j (by simp at hj; omega)
    · obtain ⟨hsp, rfl⟩ := (exec_call_eq_next_iff nnn).1 h
      simp only [State.jump_sp] at hj
      simp only [entriesAfter, Fin.getElem_fin, Vector.getElem_setIfInBounds]
      split
      · rfl
      · exact hlive j (by omega)

/-- A STEP on a state with ST, DIRTY and dead stack entries changed: the same error, or the same next state but for ST
and dead entries. -/
theorem step_withUnread (s' : State) (v : Byte) (hlive : s.LiveEntriesAre entries)
    (hs' : s'.clearDirty = s.clearDirty.withUnread v entries) :
    (∀ t, step s = .next t → ∃ i, exec i s.clearDirty = .next t ∧
      step s' = .next (t.withUnread (soundAfter i s.clearDirty v) (entriesAfter i s.clearDirty entries))) ∧
    ∀ e, step s = .fault e → step s' = .fault e := by
  have hfetch : s'.fetchInstr = s.fetchInstr := by
    rw [← s'.fetchInstr_clearDirty, hs', State.fetchInstr_withUnread, State.fetchInstr_clearDirty]
  have hstep : ∀ i, s.fetchInstr = .ok i → step s' =
      mapNext (fun t => t.withUnread (soundAfter i s.clearDirty v) (entriesAfter i s.clearDirty entries))
        (exec i s.clearDirty) := fun i hi => by
    rw [step_eq_exec (hfetch.trans hi), hs']
    exact exec_withUnread (s := s.clearDirty) i v hlive
  constructor
  · intro t h
    obtain ⟨i, hi, hx⟩ := step_next_cases s t h
    exact ⟨i, hx, by rw [hstep i hi, hx]; rfl⟩
  · intro e h
    obtain he | ⟨i, hi, hx⟩ := step_fault_cases s e h
    · exact step_eq_fault (hfetch.trans he)
    · rw [hstep i hi, hx]; rfl

/-- Settles O18: ST and DIRTY are unread, and with the stack unchanged the next states have the same stack. -/
theorem soundTimerAndDirtyAreNeverRead : Obligations.SoundTimerAndDirtyAreNeverRead := by
  intro s t v d e s'
  have hstep := step_withUnread (entries := s.stack) s' v (fun _ _ => rfl) rfl
  refine ⟨fun h => ?_, hstep.2 e⟩
  obtain ⟨i, hx, h'⟩ := hstep.1 t h
  have hstack : t.stack = entriesAfter i s.clearDirty s.stack := congrArg State.stack (exec_eq_withUnread hx)
  exact ⟨soundAfter i s.clearDirty v, by rw [h', ← hstack]; rfl⟩

/-- Settles O19: dead entries are unread, and entries that agree on what is live go on agreeing. -/
theorem deadStackEntriesAreNeverRead : Obligations.DeadStackEntriesAreNeverRead := by
  intro s t entries e hlive s'
  have hstep := step_withUnread (entries := entries) s' s.st hlive rfl
  refine ⟨hstep.2 e, fun h => ?_⟩
  obtain ⟨i, hx, h'⟩ := hstep.1 t h
  have hst : t.st = soundAfter i s.clearDirty s.st := congrArg State.st (exec_eq_withUnread hx)
  exact ⟨entriesAfter i s.clearDirty entries, by rw [h', ← hst]; rfl, entriesAfter_live hx hlive⟩

end Sys2Proof.Machine
end

section
/-! SUPPORT. The statement of 20_memory.md: a block store is read back byte for byte, and so by the next fetch. -/

namespace Sys2Proof.Machine

variable {s t : State} {x r : Nibble}

/-- Each register that `LD [I],Vx` stores stands in its own cell afterwards (45_timer_index_memory.md R238). -/
theorem exec_ldMemVx_readByte (hwf : Memory.wf s.config s.mem = true) (h : exec (.ldMemVx x) s = .next t)
    (hr : r.toNat ≤ x.toNat) : t.readByte (s.i.toNat + r.toNat) = s.getV r := by
  obtain ⟨-, rfl⟩ := (exec_ldMemVx_eq_next_iff x).1 h
  have hin : s.i.toNat ≤ s.i.toNat + r.toNat ∧ s.i.toNat + r.toNat < s.i.toNat + (s.blockValues x).length := by
    rw [State.blockValues_length]; omega
  rw [State.readByte_advance, State.readByte_writeBytes _ s _ _ (Memory.rising_of_wf hwf), dif_pos hin]
  simp

/-- `LD [I],Vx` completes only if its last byte lies in memory (20_memory.md R62). -/
theorem exec_ldMemVx_bound (h : exec (.ldMemVx x) s = .next t) : s.i.toNat + x.toNat < 4096 := by
  have hb : s.i.toNat + blockCount x ≤ 4096 := ((exec_ldMemVx_eq_next_iff x).1 h).1
  exact hb

/-- Settles O52: the two bytes fetched are those stored for `r` and `r + 1`, and the second is in bounds because the
store was. -/
theorem storeIsSeenByTheNextFetch : Obligations.StoreIsSeenByTheNextFetch := by
  intro x r s t hwf h hpc hr
  have hsucc : (r + 1).toNat = r.toNat + 1 := by bv_omega
  have hhi : t.readByte t.pc.toNat = s.getV r := hpc ▸ exec_ldMemVx_readByte hwf h hr.le
  have hlo : t.readByte (t.pc.toNat + 1) = s.getV (r + 1) := by
    rw [hpc, Nat.add_assoc, ← hsucc]
    exact exec_ldMemVx_readByte hwf h (hsucc ▸ hr)
  have hbound := exec_ldMemVx_bound h
  exact (t.fetchWord_eq_ok_iff _).2 ⟨by omega, by rw [hhi, hlo]⟩

end Sys2Proof.Machine
end

section
/-! SUPPORT. The statements of 30_encoding.md: the decoder family by family, the two round trips, the illegal words and
the rows of the opcode map. -/

namespace Sys2Proof

/-! ### The decoder, one equation per family (R94) -/

section
variable (x y n : Nibble) (kk : Byte) (nnn : Addr12)

@[simp] theorem decodeWord_family0 : decodeWord (nnnWord 0x0#4 nnn) =
    .ok (if nnn = 0x0E0#12 then .cls else if nnn = 0x0EE#12 then .ret else .sys nnn) := by
  have hcls : (0x00E0#16 : Word) = nnnWord 0x0#4 0x0E0#12 := by decide
  have hret : (0x00EE#16 : Word) = nnnWord 0x0#4 0x0EE#12 := by decide
  simp [decodeWord, decodeFamily0, hcls, hret, nnnWord_inj]

@[simp] theorem decodeWord_family1 : decodeWord (nnnWord 0x1#4 nnn) = .ok (.jp nnn) := by simp [decodeWord]
@[simp] theorem decodeWord_family2 : decodeWord (nnnWord 0x2#4 nnn) = .ok (.call nnn) := by simp [decodeWord]
@[simp] theorem decodeWord_family3 : decodeWord (xkkWord 0x3#4 x kk) = .ok (.seImm x kk) := by simp [decodeWord]
@[simp] theorem decodeWord_family4 : decodeWord (xkkWord 0x4#4 x kk) = .ok (.sneImm x kk) := by simp [decodeWord]
@[simp] theorem decodeWord_family5 : decodeWord (xynWord 0x5#4 x y n) =
    if n = 0x0#4 then .ok (.seReg x y) else .error .illegalOpcode := by simp [decodeWord]
@[simp] theorem decodeWord_family6 : decodeWord (xkkWord 0x6#4 x kk) = .ok (.ldImm x kk) := by simp [decodeWord]
@[simp] theorem decodeWord_family7 : decodeWord (xkkWord 0x7#4 x kk) = .ok (.addImm x kk) := by simp [decodeWord]
@[simp] theorem decodeWord_family8 : decodeWord (xynWord 0x8#4 x y n) = decodeFamily8 x y n := by simp [decodeWord]
@[simp] theorem decodeWord_family9 : decodeWord (xynWord 0x9#4 x y n) =
    if n = 0x0#4 then .ok (.sneReg x y) else .error .illegalOpcode := by simp [decodeWord]
@[simp] theorem decodeWord_familyA : decodeWord (nnnWord 0xA#4 nnn) = .ok (.ldI nnn) := by simp [decodeWord]
@[simp] theorem decodeWord_familyB : decodeWord (nnnWord 0xB#4 nnn) = .ok (.jpV0 nnn) := by simp [decodeWord]
@[simp] theorem decodeWord_familyC : decodeWord (xkkWord 0xC#4 x kk) = .ok (.rnd x kk) := by simp [decodeWord]
@[simp] theorem decodeWord_familyD : decodeWord (xynWord 0xD#4 x y n) = .ok (.drw x y n) := by simp [decodeWord]
@[simp] theorem decodeWord_familyE : decodeWord (xkkWord 0xE#4 x kk) = decodeFamilyE x kk := by simp [decodeWord]
@[simp] theorem decodeWord_familyF : decodeWord (xkkWord 0xF#4 x kk) = decodeFamilyF x kk := by simp [decodeWord]

theorem decodeFamily8_eq_error_iff (e : DecodeError) : decodeFamily8 x y n = .error e ↔
    e = .illegalOpcode ∧ n ∈ [0x8#4, 0x9#4, 0xA#4, 0xB#4, 0xC#4, 0xD#4, 0xF#4] := by
  have hrest : ∀ m : Nibble, m ≠ 0 → m ≠ 1 → m ≠ 2 → m ≠ 3 → m ≠ 4 → m ≠ 5 → m ≠ 6 → m ≠ 7 → m ≠ 0xE →
      m ∈ [0x8#4, 0x9#4, 0xA#4, 0xB#4, 0xC#4, 0xD#4, 0xF#4] := by decide
  unfold decodeFamily8
  split
  case h_10 =>
    cases e
    case illegalOpcode => exact iff_of_true rfl ⟨rfl, by apply hrest <;> assumption⟩
    case truncated => simp
  all_goals simp

theorem decodeFamilyE_eq_error_iff (e : DecodeError) : decodeFamilyE x kk = .error e ↔
    e = .illegalOpcode ∧ kk ∉ [0x9E#8, 0xA1#8] := by
  unfold decodeFamilyE
  split
  case h_3 => cases e <;> simp_all
  all_goals simp

theorem decodeFamilyF_eq_error_iff (e : DecodeError) : decodeFamilyF x kk = .error e ↔ e = .illegalOpcode ∧
    kk ∉ [0x07#8, 0x0A#8, 0x15#8, 0x18#8, 0x1E#8, 0x29#8, 0x33#8, 0x55#8, 0x65#8] := by
  unfold decodeFamilyF
  split
  case h_10 => cases e <;> simp_all
  all_goals simp

end

/-- A word by its family, in the format in which R94 reads it. -/
inductive InFamily : Word → Prop
  | family0 (nnn : Addr12) : InFamily (nnnWord 0x0#4 nnn)
  | family1 (nnn : Addr12) : InFamily (nnnWord 0x1#4 nnn)
  | family2 (nnn : Addr12) : InFamily (nnnWord 0x2#4 nnn)
  | family3 (x : Nibble) (kk : Byte) : InFamily (xkkWord 0x3#4 x kk)
  | family4 (x : Nibble) (kk : Byte) : InFamily (xkkWord 0x4#4 x kk)
  | family5 (x y n : Nibble) : InFamily (xynWord 0x5#4 x y n)
  | family6 (x : Nibble) (kk : Byte) : InFamily (xkkWord 0x6#4 x kk)
  | family7 (x : Nibble) (kk : Byte) : InFamily (xkkWord 0x7#4 x kk)
  | family8 (x y n : Nibble) : InFamily (xynWord 0x8#4 x y n)
  | family9 (x y n : Nibble) : InFamily (xynWord 0x9#4 x y n)
  | familyA (nnn : Addr12) : InFamily (nnnWord 0xA#4 nnn)
  | familyB (nnn : Addr12) : InFamily (nnnWord 0xB#4 nnn)
  | familyC (x : Nibble) (kk : Byte) : InFamily (xkkWord 0xC#4 x kk)
  | familyD (x y n : Nibble) : InFamily (xynWord 0xD#4 x y n)
  | familyE (x : Nibble) (kk : Byte) : InFamily (xkkWord 0xE#4 x kk)
  | familyF (x : Nibble) (kk : Byte) : InFamily (xkkWord 0xF#4 x kk)

/-- Every word belongs to one of the sixteen families. -/
theorem inFamily (w : Word) : InFamily w := by
  have hop : ∀ op : Nibble, op ∈ [0x0#4, 0x1#4, 0x2#4, 0xA#4, 0xB#4] ∨
      op ∈ [0x3#4, 0x4#4, 0x6#4, 0x7#4, 0xC#4, 0xE#4, 0xF#4] ∨ op ∈ [0x5#4, 0x8#4, 0x9#4, 0xD#4] := by decide
  obtain h | h | h := hop (opField w)
  · rw [← nnnWord_fields w]
    generalize opField w = op at h
    fin_cases h
    exacts [.family0 _, .family1 _, .family2 _, .familyA _, .familyB _]
  · rw [← xkkWord_fields w]
    generalize opField w = op at h
    fin_cases h
    exacts [.family3 _ _, .family4 _ _, .family6 _ _, .family7 _ _, .familyC _ _, .familyE _ _, .familyF _ _]
  · rw [← xynWord_fields w]
    generalize opField w = op at h
    fin_cases h
    exacts [.family5 _ _ _, .family8 _ _ _, .family9 _ _ _, .familyD _ _ _]

variable {x y n : Nibble} {kk : Byte} {nnn : Addr12} {i : Instr} {w : Word}

/-! ### Decoding an encoded instruction -/

theorem decodeWord_encode (h : i.wf = true) : decodeWord (encode i) = .ok i := by
  cases i
  case sys nnn =>
    simp only [Instr.wf, Bool.and_eq_true, bne_iff_ne] at h
    simp [encode, h]
  case cls | ret => rfl
  all_goals simp [encode, decodeFamily8, decodeFamilyE, decodeFamilyF]

theorem encode_of_decode_encode {j : Instr} (hj : j.wf = true) (h : decodeWord (encode j) = .ok i) :
    i.wf = true ∧ encode i = encode j := by
  cases (decodeWord_encode hj).symm.trans h
  exact ⟨hj, rfl⟩

theorem decode_wordBytes (w : Word) (rest : List Byte) :
    decode (hiByte w :: loByte w :: rest) = (decodeWord w).map fun i => (i, rest) := by
  simp only [decode, wordOfBytes_bytes]
  cases decodeWord w <;> rfl

/-- Settles O2: decoding follows the family and the low bits that the encoder wrote. -/
theorem decodeOfEncodeIsTheInstruction : Obligations.DecodeOfEncodeIsTheInstruction := by
  intro i h
  refine ⟨decodeWord_encode h, fun rest => ?_⟩
  calc decode (encodeBytes i ++ rest)
    _ = (decodeWord (encode i)).map fun i => (i, rest) := decode_wordBytes _ rest
    _ = .ok (i, rest) := by rw [decodeWord_encode h]; rfl

/-! ### Encoding a decoded word -/

theorem canonicalWord_of_opField_ne (h : opField w ≠ 0x8#4) : canonicalWord w = w :=
  if_neg fun hw => h hw.1

theorem canonicalWord_family8 (x y n : Nibble) : canonicalWord (xynWord 0x8#4 x y n) =
    xynWord 0x8#4 x (if n = 0x6#4 ∨ n = 0xE#4 then 0x0#4 else y) n := by
  have hmask : xynWord 0x8#4 x y n &&& 0xFF0F#16 = xynWord 0x8#4 x 0x0#4 n := by
    rw [show (0xFF0F#16 : Word) = xynWord 0xF 0xF 0x0 0xF by decide, xynWord_and,
      show x &&& 0xF = x from BitVec.and_allOnes, show n &&& 0xF = n from BitVec.and_allOnes]
    simp
  simp only [canonicalWord, opField_xynWord, nField_xynWord, hmask, true_and]
  split <;> rfl

theorem encode_of_decodeFamily0 (h : decodeWord (nnnWord 0x0#4 nnn) = .ok i) :
    i.wf = true ∧ encode i = nnnWord 0x0#4 nnn := by
  rw [decodeWord_family0] at h
  split_ifs at h with hcls hret <;> cases h
  · subst hcls; exact ⟨rfl, by decide⟩
  · subst hret; exact ⟨rfl, by decide⟩
  · simp [Instr.wf, encode, hcls, hret]

theorem encode_of_decodeFamily8 (h : decodeFamily8 x y n = .ok i) :
    i.wf = true ∧ encode i = canonicalWord (xynWord 0x8#4 x y n) := by
  rw [canonicalWord_family8]
  unfold decodeFamily8 at h
  split at h <;> cases h <;> exact ⟨rfl, rfl⟩

theorem encode_of_decodeFamilyE (h : decodeFamilyE x kk = .ok i) : i.wf = true ∧ encode i = xkkWord 0xE#4 x kk := by
  unfold decodeFamilyE at h
  split at h <;> cases h <;> exact ⟨rfl, rfl⟩

theorem encode_of_decodeFamilyF (h : decodeFamilyF x kk = .ok i) : i.wf = true ∧ encode i = xkkWord 0xF#4 x kk := by
  unfold decodeFamilyF at h
  split at h <;> cases h <;> exact ⟨rfl, rfl⟩

/-- The fields that a decoded instruction does not carry are fixed by its row, but for the `y` of the shifts. -/
theorem encode_of_decodeWord (h : decodeWord w = .ok i) : i.wf = true ∧ encode i = canonicalWord w := by
  cases inFamily w
  case family8 => exact encode_of_decodeFamily8 (decodeWord_family8 .. ▸ h)
  all_goals rw [canonicalWord_of_opField_ne (by simp)]
  case family0 => exact encode_of_decodeFamily0 h
  case familyE => exact encode_of_decodeFamilyE (decodeWord_familyE .. ▸ h)
  case familyF => exact encode_of_decodeFamilyF (decodeWord_familyF .. ▸ h)
  case family5 x y n | family9 x y n =>
    simp only [decodeWord_family5, decodeWord_family9] at h
    split_ifs at h with hn
    cases h
    exact ⟨rfl, hn ▸ rfl⟩
  case family1 nnn => exact encode_of_decode_encode (j := .jp nnn) rfl h
  case family2 nnn => exact encode_of_decode_encode (j := .call nnn) rfl h
  case family3 x kk => exact encode_of_decode_encode (j := .seImm x kk) rfl h
  case family4 x kk => exact encode_of_decode_encode (j := .sneImm x kk) rfl h
  case family6 x kk => exact encode_of_decode_encode (j := .ldImm x kk) rfl h
  case family7 x kk => exact encode_of_decode_encode (j := .addImm x kk) rfl h
  case familyA nnn => exact encode_of_decode_encode (j := .ldI nnn) rfl h
  case familyB nnn => exact encode_of_decode_encode (j := .jpV0 nnn) rfl h
  case familyC x kk => exact encode_of_decode_encode (j := .rnd x kk) rfl h
  case familyD x y n => exact encode_of_decode_encode (j := .drw x y n) rfl h

/-- Settles O3: family by family, the encoder writes back the fields that the decoder read or tested. -/
theorem encodeOfDecodeIsTheCanonicalWord : Obligations.EncodeOfDecodeIsTheCanonicalWord :=
  fun _ _ => encode_of_decodeWord

/-! ### The illegal words -/

theorem decodeWord_eq_error_iff (w : Word) (e : DecodeError) : decodeWord w = .error e ↔ e = .illegalOpcode ∧
    ((opField w = 0x5#4 ∧ nField w ≠ 0x0#4) ∨
    (opField w = 0x8#4 ∧ nField w ∈ [0x8#4, 0x9#4, 0xA#4, 0xB#4, 0xC#4, 0xD#4, 0xF#4]) ∨
    (opField w = 0x9#4 ∧ nField w ≠ 0x0#4) ∨
    (opField w = 0xE#4 ∧ kkField w ∉ [0x9E#8, 0xA1#8]) ∨
    (opField w = 0xF#4 ∧ kkField w ∉ [0x07#8, 0x0A#8, 0x15#8, 0x18#8, 0x1E#8, 0x29#8, 0x33#8, 0x55#8, 0x65#8])) := by
  cases inFamily w
  case family8 => simp [decodeFamily8_eq_error_iff]
  case familyE => simp [decodeFamilyE_eq_error_iff]
  case familyF => simp [decodeFamilyF_eq_error_iff]
  case family5 x y n | family9 x y n => by_cases hn : n = 0x0#4 <;> simp [hn, eq_comm]
  all_goals simp

/-- Settles O5: family by family, the decoder's error arms are the entries of the table. -/
theorem illegalWordsAreExactlyTheTable : Obligations.IllegalWordsAreExactlyTheTable := by
  intro w
  refine ⟨fun h => ?_, ?_⟩
  · cases ((decodeWord_eq_error_iff w _).1 h).1
  · exact (decodeWord_eq_error_iff w _).trans (and_iff_right rfl)

/-! ### Sample words and the shifts -/

/-- Settles O1: the decoder runs on each of the seventeen words. -/
theorem sampleWordsDecodeAsEncoded : Obligations.SampleWordsDecodeAsEncoded := by
  unfold Obligations.SampleWordsDecodeAsEncoded
  decide

/-- Settles O33: the arms of family 0x8 for the shifts do not look at `y`, and the encoder writes 0 there. -/
theorem shiftIgnoresItsYNibble : Obligations.ShiftIgnoresItsYNibble := by
  intro x y
  exact ⟨decodeWord_family8 x y _, decodeWord_family8 x y _, yField_xynWord .., yField_xynWord ..⟩

/-! ### The rows of the opcode map (R95) -/

/-- Two words agree on every field that R94 tests: the family, the low bits that its family tests, and whether they are
one of the two words of family 0x0 that are not `SYS`. -/
structure SameOperation (w w' : Word) : Prop where
  op : opField w = opField w'
  n : opField w' ∈ [0x5#4, 0x8#4, 0x9#4] → nField w = nField w'
  kk : opField w' ∈ [0xE#4, 0xF#4] → kkField w = kkField w'
  zero : opField w' = 0x0#4 → w = w' ∨ ∀ v ∈ [0x00E0#16, 0x00EE#16], w ≠ v ∧ w' ≠ v

/-- The mnemonic that a word decodes to. -/
def decodedMnemonic (w : Word) : Except DecodeError String := (decodeWord w).map Instr.mnemonic

theorem decodedMnemonic_eq_ok_iff (w : Word) (m : String) :
    decodedMnemonic w = .ok m ↔ ∃ i, decodeWord w = .ok i ∧ i.mnemonic = m := by
  unfold decodedMnemonic
  cases decodeWord w <;> simp [Except.map]

theorem decodeFamily8_mnemonic_congr (x x' y y' n : Nibble) :
    (decodeFamily8 x y n).map Instr.mnemonic = (decodeFamily8 x' y' n).map Instr.mnemonic := by
  unfold decodeFamily8
  split <;> rfl

theorem decodeFamilyE_mnemonic_congr (x x' : Nibble) (kk : Byte) :
    (decodeFamilyE x kk).map Instr.mnemonic = (decodeFamilyE x' kk).map Instr.mnemonic := by
  unfold decodeFamilyE
  split <;> rfl

theorem decodeFamilyF_mnemonic_congr (x x' : Nibble) (kk : Byte) :
    (decodeFamilyF x kk).map Instr.mnemonic = (decodeFamilyF x' kk).map Instr.mnemonic := by
  unfold decodeFamilyF
  split <;> rfl

theorem SameOperation.decodedMnemonic_eq {w' : Word} (h : SameOperation w w') :
    decodedMnemonic w = decodedMnemonic w' := by
  obtain ⟨hop, hn, hkk, hzero⟩ := h
  unfold decodedMnemonic
  cases inFamily w' <;>
    simp only [opField_nnnWord, opField_xkkWord, opField_xynWord, nField_xynWord, kkField_xkkWord] at hop hn hkk hzero
  case family0 nnn =>
    obtain rfl | hne := hzero trivial
    · rfl
    · obtain ⟨⟨hcls, hcls'⟩, hret, hret'⟩ := by simpa using hne
      simp [decodeWord, decodeFamily0, hop, hcls, hcls', hret, hret', Except.map, Instr.mnemonic]
  case family5 x y n | family9 x y n =>
    by_cases h0 : n = 0x0#4 <;> simp [decodeWord, hop, hn, h0, Except.map, Instr.mnemonic]
  case family8 x y n => simpa [decodeWord, hop, hn] using decodeFamily8_mnemonic_congr ..
  case familyE x kk => simpa [decodeWord, hop, hkk] using decodeFamilyE_mnemonic_congr ..
  case familyF x kk => simpa [decodeWord, hop, hkk] using decodeFamilyF_mnemonic_congr ..
  all_goals simp [decodeWord, hop, Except.map, Instr.mnemonic]

theorem decodedMnemonic_pattern : ∀ r ∈ opcodeRows, decodedMnemonic r.pattern = .ok r.mnemonic := by decide

theorem OpcodeRow.selects_iff (r : OpcodeRow) (w : Word) :
    r.selects w = true ↔ w &&& r.mask = r.pattern ∧ w ∉ r.exclude := by
  simp [OpcodeRow.selects]

/-- Every mask of the map covers the fields that its row's family tests. -/
theorem opcodeRows_masks : ∀ r ∈ opcodeRows, opField r.mask = 0xF#4 ∧
    (opField r.pattern ∈ [0x5#4, 0x8#4, 0x9#4] → nField r.mask = 0xF#4) ∧
    (opField r.pattern ∈ [0xE#4, 0xF#4] → kkField r.mask = 0xFF#8) ∧
    (opField r.pattern = 0x0#4 →
      r.mask = 0xFFFF#16 ∨ r.pattern = 0x0000#16 ∧ r.exclude = [0x00E0#16, 0x00EE#16]) := by
  decide

/-- A field that the mask covers is that of the row's pattern. -/
theorem extract_eq_of_mask {k len : Nat} {m p : Word} (h : w &&& m = p)
    (hm : m.extractLsb' k len = BitVec.allOnes len) : w.extractLsb' k len = p.extractLsb' k len := by
  rw [← h, BitVec.extractLsb'_and, hm, BitVec.and_allOnes]

theorem sameOperation_pattern {r : OpcodeRow} (hr : r ∈ opcodeRows) (h : r.selects w = true) :
    SameOperation w r.pattern := by
  obtain ⟨hw, hout⟩ := (r.selects_iff w).1 h
  obtain ⟨hop, hn, hkk, hzero⟩ := opcodeRows_masks r hr
  refine ⟨extract_eq_of_mask hw hop, fun h8 => extract_eq_of_mask hw (hn h8),
    fun hF => extract_eq_of_mask hw (hkk hF), fun h0 => ?_⟩
  obtain hm | ⟨hp, hex⟩ := hzero h0
  · left; rw [← hw, hm]; exact BitVec.and_allOnes.symm
  · right
    intro v hv
    refine ⟨fun e => hout (hex ▸ e ▸ hv), fun e => ?_⟩
    rw [← e, hp] at hv
    revert hv
    decide

open Laws.EncodedWordSelectsRow in
theorem encode_selects_row : ∀ i : Instr, Statement i
  | .sys nnn => sys nnn
  | .cls => cls
  | .ret => ret
  | .jp nnn => jp nnn
  | .call nnn => call nnn
  | .seImm x kk => seImm x kk
  | .sneImm x kk => sneImm x kk
  | .seReg x y => seReg x y
  | .ldImm x kk => ldImm x kk
  | .addImm x kk => addImm x kk
  | .ldReg x y => ldReg x y
  | .orReg x y => orReg x y
  | .andReg x y => andReg x y
  | .xorReg x y => xorReg x y
  | .addReg x y => addReg x y
  | .sub x y => sub x y
  | .shr x => shr x
  | .subn x y => subn x y
  | .shl x => shl x
  | .sneReg x y => sneReg x y
  | .ldI nnn => ldI nnn
  | .jpV0 nnn => jpV0 nnn
  | .rnd x kk => rnd x kk
  | .drw x y n => drw x y n
  | .skp x => skp x
  | .sknp x => sknp x
  | .ldVxDt x => ldVxDt x
  | .ldVxK x => ldVxK x
  | .ldDtVx x => ldDtVx x
  | .ldStVx x => ldStVx x
  | .addI x => addI x
  | .ldF x => ldF x
  | .ldB x => ldB x
  | .ldMemVx x => ldMemVx x
  | .ldVxMem x => ldVxMem x

theorem opcodeRows_family8 : ∀ r ∈ opcodeRows, opField r.pattern = 0x8#4 → r.mask = 0xF00F#16 ∧ r.exclude = [] := by
  decide

/-- No row looks at the bits that the canonical form of a word clears. -/
theorem selects_of_selects_canonicalWord {r : OpcodeRow} (hr : r ∈ opcodeRows)
    (h : r.selects (canonicalWord w) = true) : r.selects w = true := by
  by_cases h8 : opField w = 0x8#4
  case neg => rwa [canonicalWord_of_opField_ne h8] at h
  case pos =>
    have hw := xynWord_fields w
    rw [h8] at hw
    rw [← hw, canonicalWord_family8] at h
    have hp := (sameOperation_pattern hr h).op
    rw [opField_xynWord] at hp
    obtain ⟨hm, hex⟩ := opcodeRows_family8 r hr hp.symm
    rw [OpcodeRow.selects_iff, hm, hex] at h ⊢
    rw [← hw]
    simpa using h

/-- Settles O4: a selected word decodes as its row's pattern does; conversely a decoded instruction's word selects the
row of its mnemonic, which only one row carries. -/
theorem rowSelectedExactlyWhenDecoded : Obligations.RowSelectedExactlyWhenDecoded := by
  refine ⟨rfl, fun w r hr => ?_⟩
  rw [← decodedMnemonic_eq_ok_iff]
  constructor
  · intro h
    rw [(sameOperation_pattern hr h).decodedMnemonic_eq, decodedMnemonic_pattern r hr]
  · rw [decodedMnemonic_eq_ok_iff]
    rintro ⟨i, hi, hmn⟩
    obtain ⟨hwf, henc⟩ := encode_of_decodeWord hi
    obtain ⟨r', hr', hmn', hsel⟩ := encode_selects_row i hwf
    have hnodup : (opcodeRows.map OpcodeRow.mnemonic).Nodup := by decide
    obtain rfl : r' = r := List.inj_on_of_nodup_map hnodup hr' hr (hmn'.trans hmn)
    exact selects_of_selects_canonicalWord hr (henc ▸ hsel)

end Sys2Proof
end

section
/-! SUPPORT. The statements of 40_step_cycle.md: what a fetch answers, the placing of a word where it looks, and the
errors of the execute stage, of which none is the fetch error. -/

namespace Sys2Proof

/-- Two bytes are one instruction exactly when their big-endian word decodes (30_encoding.md R90). -/
theorem decode_pair_eq_ok_iff (hi lo : Byte) (i : Instr) :
    decode [hi, lo] = .ok (i, []) ↔ decodeWord (wordOfBytes hi lo) = .ok i := by
  have h := decode_wordBytes (wordOfBytes hi lo) []
  rw [hiByte_wordOfBytes, loByte_wordOfBytes] at h
  rw [h]
  cases decodeWord (wordOfBytes hi lo) <;> simp [Except.map]

theorem decodeTableWord_eq_some_iff (nbits w : Nat) (i : Instr) :
    decodeTableWord nbits w = some i ↔ decodeWord (BitVec.ofNat 16 (w % 2 ^ nbits)) = .ok i := by
  simp only [decodeTableWord, decode_wordBytes]
  cases decodeWord (BitVec.ofNat 16 (w % 2 ^ nbits)) <;> simp [Except.map]

end Sys2Proof

namespace Sys2Proof.Machine

variable {s : State} {i : Instr} {w : Word}

/-! ### Fetch and decode -/

theorem State.fetchInstr_of_fetchWord (hw : s.fetchWord = .ok w) (hi : decodeWord w = .ok i) :
    s.fetchInstr = .ok i := by
  obtain ⟨hpc, rfl⟩ := (s.fetchWord_eq_ok_iff w).1 hw
  exact (s.fetchInstr_eq_ok_iff i).2 ⟨hpc, hi⟩

/-- What fetch and decode answer when no instruction is there: the first stage that fails names the error (R125). -/
theorem State.fetchInstr_eq_error_iff (s : State) (e : Fault) : s.fetchInstr = .error e ↔
    s.fetchWord = .error e ∨ ∃ w d, s.fetchWord = .ok w ∧ decodeWord w = .error d ∧ e = .illegalOpcode := by
  unfold State.fetchInstr
  cases s.fetchWord with
  | error e' => simp
  | ok w => cases h : decodeWord w <;> simp [h, eq_comm]

/-- Settles O6: the two bytes at `pc` are the word that the fetch decodes. -/
theorem stepRunsTheDecodedInstruction : Obligations.StepRunsTheDecodedInstruction := by
  intro s i hpc hd
  exact step_eq_exec ((s.fetchInstr_eq_ok_iff i).2 ⟨hpc, (decode_pair_eq_ok_iff _ _ i).1 hd⟩)

/-! ### The placing of a word -/

/-- The two bytes of a word, stored where the fetch reads, are the word it fetches (20_memory.md R65, R73). -/
theorem State.fetchWord_writeBytes_pc (s : State) (hm : Memory.risingFrom 0 s.mem = true) (hpc : s.pc.toNat ≤ 4094)
    (w : Word) : (s.writeBytes s.pc.toNat [hiByte w, loByte w]).fetchWord = .ok w := by
  rw [State.fetchWord_eq_ok_iff, State.writeBytes_pc]
  refine ⟨hpc, ?_⟩
  simp [State.readByte_writeBytes _ s _ _ hm]

theorem State.fetchWord_withFetchWord (s : State) (hm : Memory.risingFrom 0 s.mem = true) (nbits w : Nat) :
    (s.withFetchWord nbits w).fetchWord = .ok (BitVec.ofNat 16 (w % 2 ^ nbits)) := by
  unfold State.withFetchWord
  cases hb : outOfBounds s.pc.toNat 2 with
  | true =>
    have hpc : (s.jump 512).pc.toNat ≤ 4094 := by rw [State.jump_pc]; decide
    exact (s.jump 512).fetchWord_writeBytes_pc hm hpc _
  | false =>
    have hpc : s.pc.toNat ≤ 4094 := by rw [outOfBounds_eq_false_iff] at hb; omega
    exact s.fetchWord_writeBytes_pc hm hpc _

/-- Settles O7: the fetch gives back the placed word, whether or not `pc` had to move to 512. -/
theorem placedWordRunsNext : Obligations.PlacedWordRunsNext := by
  intro s w i hwf hd
  have hfetch := s.fetchWord_withFetchWord (Memory.rising_of_wf hwf) 16 w
  exact step_eq_exec (State.fetchInstr_of_fetchWord hfetch ((decodeTableWord_eq_some_iff 16 w i).1 hd))

/-! ### The errors of the execute stage (60_exceptions.md R260) -/

section
variable (s : State) (e : Fault) (x y n : Nibble) (nnn : Addr12)

theorem exec_sys_eq_fault_iff :
    exec (.sys nnn) s = .fault e ↔ s.config.sysPolicy = .illegal ∧ e = .illegalOpcode := by
  simp only [exec, execSys]
  cases s.config.sysPolicy <;> simp [raise, eq_comm]

theorem exec_ret_eq_fault_iff : exec .ret s = .fault e ↔ s.sp.val = 0 ∧ e = .stackUnderflow := by
  rw [← s.pop_eq_error_iff e]
  simp only [exec, execRet]
  cases s.pop <;> simp [raise]

theorem exec_call_eq_fault_iff : exec (.call nnn) s = .fault e ↔ s.sp.val = 16 ∧ e = .stackOverflow := by
  rw [← s.push_eq_error_iff (s.pc + 2) e]
  simp only [exec, execCall]
  cases s.push (s.pc + 2) <;> simp [raise]

theorem exec_drw_eq_fault_iff : exec (.drw x y n) s = .fault e ↔
    (1 ≤ n.toNat ∧ 4096 ≤ s.i.toNat + n.toNat - 1) ∧ e = .outOfBoundsLoad := by
  rw [← s.memRead_eq_error_iff]
  simp only [exec, execDrw]
  cases s.memRead .outOfBoundsLoad s.i n.toNat <;> simp [raise]

theorem exec_ldB_eq_fault_iff :
    exec (.ldB x) s = .fault e ↔ 4096 ≤ s.i.toNat + 2 ∧ e = .outOfBoundsStore := by
  have hx : exec (.ldB x) s = .fault e ↔ s.memWrite s.i (bcdDigits (s.getV x)) = .error e := by
    simp only [exec, execLdB]
    cases s.memWrite s.i (bcdDigits (s.getV x)) <;> simp [raise]
  have hlen : (bcdDigits (s.getV x)).length = 3 := rfl
  rw [hx, State.memWrite_eq_error_iff, hlen]
  exact and_congr_left' (by omega)

theorem exec_ldMemVx_eq_fault_iff :
    exec (.ldMemVx x) s = .fault e ↔ 4096 ≤ s.i.toNat + x.toNat ∧ e = .outOfBoundsStore := by
  have hx : exec (.ldMemVx x) s = .fault e ↔ s.memWrite s.i (s.blockValues x) = .error e := by
    simp only [exec, execLdMemVx]
    cases s.memWrite s.i (s.blockValues x) <;> simp [raise]
  rw [hx, State.memWrite_eq_error_iff, State.blockValues_length]
  exact and_congr_left' (by omega)

theorem exec_ldVxMem_eq_fault_iff :
    exec (.ldVxMem x) s = .fault e ↔ 4096 ≤ s.i.toNat + x.toNat ∧ e = .outOfBoundsLoad := by
  have hx : exec (.ldVxMem x) s = .fault e ↔ s.memRead .outOfBoundsLoad s.i (blockCount x) = .error e := by
    simp only [exec, execLdVxMem]
    cases s.memRead .outOfBoundsLoad s.i (blockCount x) <;> simp [raise]
  rw [hx, State.memRead_eq_error_iff, blockCount]
  exact and_congr_left' (by omega)

end

/-- The execute stage fetches nothing: the instructions that can fail name other errors, and the rest complete. -/
theorem exec_ne_outOfBoundsFetch (i : Instr) (s : State) : exec i s ≠ .fault .outOfBoundsFetch := by
  cases i
  case sys nnn => simp [exec_sys_eq_fault_iff]
  case ret => simp [exec_ret_eq_fault_iff]
  case call nnn => simp [exec_call_eq_fault_iff]
  case drw x y n => simp [exec_drw_eq_fault_iff]
  case ldB x => simp [exec_ldB_eq_fault_iff]
  case ldMemVx x => simp [exec_ldMemVx_eq_fault_iff]
  case ldVxMem x => simp [exec_ldVxMem_eq_fault_iff]
  case ldVxK x => simp only [exec, execLdVxK]; split <;> simp
  all_goals exact nofun

theorem step_eq_outOfBoundsFetch_iff (s : State) : step s = .fault .outOfBoundsFetch ↔ 4095 ≤ s.pc.toNat := by
  have hfetch : s.fetchInstr = .error .outOfBoundsFetch ↔ 4095 ≤ s.pc.toNat := by
    simp [State.fetchInstr_eq_error_iff, State.fetchWord_eq_error_iff]
  rw [← hfetch]
  refine ⟨fun h => ?_, step_eq_fault⟩
  obtain hf | ⟨i, -, hx⟩ := step_fault_cases s _ h
  · exact hf
  · exact absurd hx (exec_ne_outOfBoundsFetch i _)

/-- Settles O8: no later stage raises the fetch error, and the fetched word is put together from the two bytes. -/
theorem fetchFailsExactlyBeyondMemory : Obligations.FetchFailsExactlyBeyondMemory := by
  intro s
  refine ⟨(step_eq_outOfBoundsFetch_iff s).trans (by omega), fun hpc => ?_⟩
  exact ⟨_, (s.fetchWord_eq_ok_iff _).2 ⟨hpc, rfl⟩, hiByte_wordOfBytes .., loByte_wordOfBytes ..⟩

end Sys2Proof.Machine
end

section
/-! SUPPORT. The statements of 41_control_flow.md: where each control-flow instruction sends `pc`, what `CALL` and `RET`
do to the stack, and the frame of an instruction that stores nothing. -/

namespace Sys2Proof.Machine

variable {s t : State} {i : Instr} {nnn : Addr12}

/-- An instruction whose row names no byte of memory leaves memory as it was, in whatever form memory is. -/
theorem exec_frame_of_bytes_eq_nil (h : exec i s = .next t) (hw : (writesOf i s).bytes = []) :
    Frame (writesOf i s) s t := by
  obtain ⟨hrest, l, hl, -, hm⟩ := exec_writesOnly i h
  have hnil : l = [] := by simpa [State.addressesFromI] using hl.symm.trans hw
  have hmem : t.mem = s.mem := by rw [hm, hnil]; rfl
  rwa [← hmem] at hrest

/-! ### Targets (R142, R148) -/

theorem zextAddr_toNat (nnn : Addr12) : (zextAddr nnn).toNat = nnn.toNat :=
  BitVec.toNat_setWidth_of_le (by decide)

theorem zextByte_toNat (b : Byte) : (zextByte b).toNat = b.toNat :=
  BitVec.toNat_setWidth_of_le (by decide)

/-- The target of `JP V0` is at most 4095 + 255, so the 16-bit sum is exact. -/
theorem toNat_zextAddr_add_zextByte (nnn : Addr12) (b : Byte) :
    (zextAddr nnn + zextByte b).toNat = nnn.toNat + b.toNat := by
  have hsum : (zextAddr nnn).toNat + (zextByte b).toNat < 2 ^ 16 := by
    rw [zextAddr_toNat, zextByte_toNat]; omega
  rw [BitVec.toNat_add_of_lt hsum, zextAddr_toNat, zextByte_toNat]

/-! ### The call stack (R141, R143) -/

theorem exec_call_sp (h : exec (.call nnn) s = .next t) : t.sp.val = s.sp.val + 1 := by
  obtain ⟨-, rfl⟩ := (exec_call_eq_next_iff nnn).1 h
  rfl

theorem exec_call_stack (h : exec (.call nnn) s = .next t) (j : Fin 16) :
    t.stack[j] = if j.val = s.sp.val then s.pc + 2 else s.stack[j] := by
  obtain ⟨hsp, rfl⟩ := (exec_call_eq_next_iff nnn).1 h
  simp only [State.jump_stack, Fin.getElem_fin, Vector.getElem_set, eq_comm (a := s.sp.val)]

theorem exec_ret_sp (h : exec .ret s = .next t) : t.sp.val = s.sp.val - 1 := by
  obtain ⟨-, rfl⟩ := exec_ret_eq_next_iff.1 h
  rfl

/-- Settles O23: `CALL` completes below depth 16, and what it pushed is its one change to the stack. -/
theorem callPushesTheReturnAddress : Obligations.CallPushesTheReturnAddress := by
  refine fun nnn s => ⟨fun hsp => ?_, fun hsp => (exec_call_eq_fault_iff s _ nnn).2 ⟨hsp, rfl⟩⟩
  obtain ⟨t, h⟩ : ∃ t, exec (.call nnn) s = .next t := ⟨_, (exec_call_eq_next_iff nnn).2 ⟨hsp, rfl⟩⟩
  have hpc : t.pc = zextAddr nnn := exec_pc _ h
  exact ⟨t, h, by rw [hpc, zextAddr_toNat], exec_call_sp h, exec_call_stack h, exec_frame_of_bytes_eq_nil h rfl⟩

/-- Settles O24: `RET` completes when an entry is live, and its row names SP alone. -/
theorem returnPopsTheTopEntry : Obligations.ReturnPopsTheTopEntry := by
  refine fun s => ⟨fun hsp => ?_, fun hsp => (exec_ret_eq_fault_iff s _).2 ⟨hsp, rfl⟩⟩
  obtain ⟨t, h⟩ : ∃ t, exec .ret s = .next t := ⟨_, exec_ret_eq_next_iff.2 ⟨hsp, rfl⟩⟩
  exact ⟨t, h, (exec_pc _ h).trans (pcAfter_ret s), exec_ret_sp h, exec_frame_of_bytes_eq_nil h rfl⟩

/-- Settles O25: the entry `CALL` pushed is the top one of the stack it left, which `RET` pops. -/
theorem returnResumesAfterTheCall : Obligations.ReturnResumesAfterTheCall := by
  intro nnn s t u h hsp hstack
  have hbelow : s.sp.val < 16 := ((exec_call_eq_next_iff nnn).1 h).1
  have hdepth : u.sp.val = s.sp.val + 1 := by rw [hsp, exec_call_sp h]
  have htop : u.stack[s.sp.val] = s.pc + 2 := by
    have hpushed := exec_call_stack h ⟨s.sp.val, hbelow⟩
    rw [if_pos rfl] at hpushed
    rw [hstack]; exact hpushed
  obtain ⟨u', hret, hpc, hsp', -⟩ := (returnPopsTheTopEntry u).1 (by omega)
  refine ⟨u', hret, ?_, Fin.ext (by omega)⟩
  simp only [hpc, hdepth, Nat.add_sub_cancel, htop]

/-! ### Skips, `SYS` and jumps (R144 to R147, R140, R142, R148) -/

/-- Settles O26: the four rows of the `pc` table compare bytes, which are equal exactly when their values are. -/
theorem compareSkipsPassOverOneInstruction : Obligations.CompareSkipsPassOverOneInstruction := by
  intro x y kk s
  simp only [BitVec.toNat_inj]
  have completes : ∀ {i t}, exec i s = .next t → (writesOf i s).bytes = [] →
      ∃ t, exec i s = .next t ∧ Frame (writesOf i s) s t ∧ t.pc = pcAfter i s :=
    fun h hw => ⟨_, h, exec_frame_of_bytes_eq_nil h hw, exec_pc _ h⟩
  exact ⟨completes (i := .seImm x kk) rfl rfl, completes (i := .sneImm x kk) rfl rfl,
    completes (i := .seReg x y) rfl rfl, completes (i := .sneReg x y) rfl rfl⟩

/-- Settles O20: the policy alone decides between completing and the error. -/
theorem sysFollowsItsPolicy : Obligations.SysFollowsItsPolicy := by
  refine fun nnn s => ⟨fun hp => ?_, fun hp => (exec_sys_eq_fault_iff s _ nnn).2 ⟨hp, rfl⟩⟩
  have h := (exec_sys_eq_next_iff nnn).2 ⟨hp, rfl⟩
  exact ⟨_, h, exec_pc _ h, exec_frame_of_bytes_eq_nil h rfl⟩

/-- Settles O21: widening `nnn` to 16 bits keeps its value. -/
theorem jumpGoesToItsTarget : Obligations.JumpGoesToItsTarget :=
  fun nnn _ => ⟨_, rfl, zextAddr_toNat nnn, exec_frame_of_bytes_eq_nil (i := .jp nnn) rfl rfl⟩

/-- Settles O22: the sum fits in 16 bits, so it is not reduced. -/
theorem jumpV0AddsRegisterZero : Obligations.JumpV0AddsRegisterZero :=
  fun nnn s => ⟨_, rfl, toNat_zextAddr_add_zextByte nnn (s.getV 0),
    exec_frame_of_bytes_eq_nil (i := .jpV0 nnn) rfl rfl⟩

end Sys2Proof.Machine
end

section
/-! SUPPORT. The statements of 42_alu.md: what an instruction that writes one register, or the flag and then one
register, leaves behind, and the flags and results of the byte operations as numbers. -/

namespace Sys2Proof.Machine

variable {s : State} {i : Instr} {x y : Nibble} {f b : Byte} {n : Nat}

/-! ### The two shapes of a register write (R160) -/

theorem completes_of_setV (h : exec i s = .next (s.setV x b).advance) :
    ∃ t, exec i s = .next t ∧ t.getV x = b ∧ t.pc = s.pc + 2 ∧ Frame { regs := [x] } s t :=
  ⟨_, h, by simp, rfl, ((Frame.refl _ s).setV b (by simp)).advance⟩

/-- The flag survives in VF where the result goes to another register. -/
theorem completes_of_setFlagThenV (h : exec i s = .next (s.setFlagThenV f x b).advance) (hx : x ≠ vf) :
    ∃ t, exec i s = .next t ∧ t.getV x = b ∧ t.getV vf = f ∧ t.pc = s.pc + 2 ∧ Frame { regs := [vf, x] } s t :=
  ⟨_, h, by simp, by simp [hx.symm], rfl, ((Frame.refl _ s).setFlagThenV f b (by simp) (by simp)).advance⟩

/-- The result replaces the flag where it goes to VF (D13). -/
theorem completes_of_setFlagThenV_vf (h : exec i s = .next (s.setFlagThenV f vf b).advance) (hb : b.toNat = n) :
    ∃ t, exec i s = .next t ∧ (t.getV vf).toNat = n ∧ t.pc = s.pc + 2 ∧ Frame { regs := [vf] } s t :=
  ⟨_, h, by simpa using hb, rfl, ((Frame.refl _ s).setFlagThenV f b (by simp) (by simp)).advance⟩

/-! ### Results and flags as numbers -/

section
variable (a b : Byte)

theorem toNat_byte_add : (a + b).toNat = (a.toNat + b.toNat) % 256 := BitVec.toNat_add a b

theorem toNat_byte_sub : (a - b).toNat = (a.toNat + 256 - b.toNat) % 256 := by
  rw [BitVec.toNat_sub]; congr 1; omega

theorem toNat_byte_shr : (a >>> 1).toNat = a.toNat / 2 := by
  rw [BitVec.toNat_ushiftRight, Nat.shiftRight_one]

theorem toNat_byte_shl : (a <<< 1).toNat = 2 * a.toNat % 256 := by
  rw [BitVec.toNat_shiftLeft, Nat.shiftLeft_eq, pow_one, Nat.mul_comm]

theorem flagByte_carryFlag : flagByte (carryFlag a b) = if 255 < a.toNat + b.toNat then 1 else 0 := by
  simp [flagByte, carryFlag]

theorem flagByte_notBorrowFlag : flagByte (notBorrowFlag a b) = if b.toNat ≤ a.toNat then 1 else 0 := by
  simp [flagByte, notBorrowFlag]

/-- A bit of a byte, as the byte VF receives. -/
theorem toNat_flagByte_getLsbD (k : Nat) : (flagByte (a.getLsbD k)).toNat = a.toNat / 2 ^ k % 2 := by
  rw [← Nat.toNat_testBit, ← BitVec.getLsbD]
  cases a.getLsbD k <;> rfl

theorem toNat_flagByte_shrFlag : (flagByte (shrFlag a)).toNat = a.toNat % 2 := by
  rw [shrFlag, toNat_flagByte_getLsbD, pow_zero, Nat.div_one]

/-- Bit 7 is the last: the quotient by 128 is that bit alone. -/
theorem toNat_flagByte_shlFlag : (flagByte (shlFlag a)).toNat = a.toNat / 128 := by
  rw [shlFlag, toNat_flagByte_getLsbD]; omega

end

/-! ### `ADD`, `SUB` and `SUBN` to a register other than VF (R167, R168, R170), whatever `y` is -/

section
variable (hx : x ≠ vf) (y : Nibble) (s : State)
include hx

theorem exec_addReg_completes : ∃ t, exec (.addReg x y) s = .next t ∧
    (t.getV x).toNat = ((s.getV x).toNat + (s.getV y).toNat) % 256 ∧
    t.getV vf = (if 255 < (s.getV x).toNat + (s.getV y).toNat then 1 else 0) ∧
    t.pc = s.pc + 2 ∧ Frame { regs := [vf, x] } s t := by
  obtain ⟨t, h, hv, hf, hrest⟩ := completes_of_setFlagThenV (i := .addReg x y) (s := s) rfl hx
  exact ⟨t, h, hv ▸ toNat_byte_add .., hf.trans (flagByte_carryFlag ..), hrest⟩

theorem exec_sub_completes : ∃ t, exec (.sub x y) s = .next t ∧
    (t.getV x).toNat = ((s.getV x).toNat + 256 - (s.getV y).toNat) % 256 ∧
    t.getV vf = (if (s.getV y).toNat ≤ (s.getV x).toNat then 1 else 0) ∧
    t.pc = s.pc + 2 ∧ Frame { regs := [vf, x] } s t := by
  obtain ⟨t, h, hv, hf, hrest⟩ := completes_of_setFlagThenV (i := .sub x y) (s := s) rfl hx
  exact ⟨t, h, hv ▸ toNat_byte_sub .., hf.trans (flagByte_notBorrowFlag ..), hrest⟩

theorem exec_subn_completes : ∃ t, exec (.subn x y) s = .next t ∧
    (t.getV x).toNat = ((s.getV y).toNat + 256 - (s.getV x).toNat) % 256 ∧
    t.getV vf = (if (s.getV x).toNat ≤ (s.getV y).toNat then 1 else 0) ∧
    t.pc = s.pc + 2 ∧ Frame { regs := [vf, x] } s t := by
  obtain ⟨t, h, hv, hf, hrest⟩ := completes_of_setFlagThenV (i := .subn x y) (s := s) rfl hx
  exact ⟨t, h, hv ▸ toNat_byte_sub .., hf.trans (flagByte_notBorrowFlag ..), hrest⟩

end

/-- Settles O30: the three need only `x` to be other than VF. -/
theorem addSubtractSetTheFlag : Obligations.AddSubtractSetTheFlag :=
  fun _ y s hx _ => ⟨exec_addReg_completes hx y s, exec_sub_completes hx y s, exec_subn_completes hx y s⟩

/-- Settles O31: the bit shifted out is the remainder by 2 of `SHR` and the quotient by 128 of `SHL`. -/
theorem shiftsMoveOneBitIntoTheFlag : Obligations.ShiftsMoveOneBitIntoTheFlag := by
  intro x s hx
  constructor
  · obtain ⟨t, h, hv, hf, hrest⟩ := completes_of_setFlagThenV (i := .shr x) (s := s) rfl hx
    exact ⟨t, h, hv ▸ toNat_byte_shr _, hf ▸ toNat_flagByte_shrFlag _, hrest⟩
  · obtain ⟨t, h, hv, hf, hrest⟩ := completes_of_setFlagThenV (i := .shl x) (s := s) rfl hx
    exact ⟨t, h, hv ▸ toNat_byte_shl _, hf ▸ toNat_flagByte_shlFlag _, hrest⟩

/-- Settles O32: with `x = 15` the second write, the result, stays in VF; `y = 15` is one more register to read. -/
theorem flagWritersWithOperandVf : Obligations.FlagWritersWithOperandVf :=
  fun _ _ s hx =>
    ⟨completes_of_setFlagThenV_vf rfl (toNat_byte_add ..), completes_of_setFlagThenV_vf rfl (toNat_byte_sub ..),
      completes_of_setFlagThenV_vf rfl (toNat_byte_sub ..), completes_of_setFlagThenV_vf rfl (toNat_byte_shr _),
      completes_of_setFlagThenV_vf rfl (toNat_byte_shl _), exec_addReg_completes hx vf s,
      exec_sub_completes hx vf s, exec_subn_completes hx vf s⟩

/-! ### The instructions that write no flag (R161 to R166, R172) -/

theorem completes_of_setV_bits {p : Nat → Bool} (h : exec i s = .next (s.setV x b).advance)
    (hb : ∀ j, b.getLsbD j = p j) :
    ∃ t, exec i s = .next t ∧ t.pc = s.pc + 2 ∧ Frame { regs := [x] } s t ∧ ∀ j, (t.getV x).getLsbD j = p j := by
  obtain ⟨t, h, hv, hpc, hframe⟩ := completes_of_setV h
  exact ⟨t, h, hpc, hframe, hv ▸ hb⟩

/-- Settles O29: each operation of bytes is the operation of their bits. -/
theorem bitwiseOperationsActOnEachBit : Obligations.BitwiseOperationsActOnEachBit :=
  fun _ _ _ => ⟨completes_of_setV_bits rfl fun _ => BitVec.getLsbD_or,
    completes_of_setV_bits rfl fun _ => BitVec.getLsbD_and, completes_of_setV_bits rfl fun _ => BitVec.getLsbD_xor⟩

/-- Settles O27: both write one register, with a byte read before the write. -/
theorem registerLoadsCopyTheirSource : Obligations.RegisterLoadsCopyTheirSource :=
  fun _ _ _ _ => ⟨completes_of_setV rfl, completes_of_setV rfl⟩

/-- Settles O28: the sum of two bytes is reduced modulo 256, and VF is no part of the write. -/
theorem addImmediateWrapsWithoutFlag : Obligations.AddImmediateWrapsWithoutFlag := by
  intro x kk s
  obtain ⟨t, h, hv, hrest⟩ := completes_of_setV (i := .addImm x kk) (s := s) rfl
  exact ⟨t, h, hv ▸ toNat_byte_add .., hrest⟩

/-- Settles O34: a conjunction with `kk` has no bit that `kk` has clear, whatever the free byte is. -/
theorem randomByteUnderItsMask : Obligations.RandomByteUnderItsMask := by
  intro x kk s
  obtain ⟨t, h⟩ : ∃ t, exec (.rnd x kk) s = .next t := ⟨_, rfl⟩
  have hv : t.getV x = Config.freeByte s.draws &&& kk := by cases h; simp
  have hdraws : t.draws = s.draws + 1 := by cases h; rfl
  exact ⟨t, h, hv, fun j hj => by rw [hv, BitVec.getLsbD_and, hj, Bool.and_false], hdraws, exec_pc _ h,
    exec_frame_of_bytes_eq_nil h rfl⟩

end Sys2Proof.Machine
end

section
/-! SUPPORT. The statements of 43_display.md: the sprite a draw reads as its pixels on the display, what a draw that
completes leaves in every cell and in VF, and the two queries. -/

namespace Sys2Proof.Machine

variable {s t u : State} {x y n : Nibble}

/-! ### The sprite at `I` (R191, R193) -/

/-- The pixels of the sprite that `DRW Vx,Vy,n` draws. -/
def State.spriteAt (s : State) (x y n : Nibble) : List SpritePixel :=
  spritePixels (s.getV x) (s.getV y) ((List.range n.toNat).map fun r => s.readByte (s.i.toNat + r))

/-- The pixel of row `r` and column `c`: its cell and its source bit. -/
def State.spritePixelAt (s : State) (x y : Nibble) (r c : Nat) : SpritePixel where
  px := wrapColumn (s.getV x) c
  py := wrapRow (s.getV y) r
  bit := (s.readByte (s.i.toNat + r)).getLsbD (7 - c)

theorem State.mem_spriteAt (p : SpritePixel) :
    p ∈ s.spriteAt x y n ↔ ∃ r < n.toNat, ∃ c < 8, p = s.spritePixelAt x y r c := by
  simp [State.spriteAt, State.spritePixelAt, mem_spritePixels]

theorem State.any_spriteAt (f : SpritePixel → Bool) :
    (s.spriteAt x y n).any f = true ↔ ∃ r < n.toNat, ∃ c < 8, f (s.spritePixelAt x y r c) = true := by
  rw [List.any_eq_true]
  constructor
  · rintro ⟨p, hp, hf⟩
    obtain ⟨r, hr, c, hc, rfl⟩ := (State.mem_spriteAt p).1 hp
    exact ⟨r, hr, c, hc, hf⟩
  · rintro ⟨r, hr, c, hc, hf⟩
    exact ⟨_, (State.mem_spriteAt _).2 ⟨r, hr, c, hc, rfl⟩, hf⟩

/-- Whether a 1 bit of the sprite falls on a cell. -/
def State.spriteCovers (s : State) (x y n : Nibble) (px : Fin 64) (py : Fin 32) : Bool :=
  (s.spriteAt x y n).any fun p => decide (px = p.px ∧ py = p.py) && p.bit

theorem State.spriteCovers_eq_true_iff (px : Fin 64) (py : Fin 32) : s.spriteCovers x y n px py = true ↔
    ∃ r < n.toNat, ∃ c < 8, px.val = ((s.getV x).toNat + c) % 64 ∧ py.val = ((s.getV y).toNat + r) % 32 ∧
      (s.readByte (s.i.toNat + r)).getLsbD (7 - c) = true := by
  rw [State.spriteCovers, State.any_spriteAt]
  simp [State.spritePixelAt, wrapColumn, wrapRow, Fin.ext_iff, and_assoc]

/-- A draw reads of the state only the coordinates, `I` and the sprite's bytes. -/
theorem State.spriteAt_congr (hx : u.getV x = s.getV x) (hy : u.getV y = s.getV y) (hi : u.i = s.i)
    (hrows : ∀ r < n.toNat, u.readByte (s.i.toNat + r) = s.readByte (s.i.toNat + r)) :
    u.spriteAt x y n = s.spriteAt x y n := by
  unfold State.spriteAt
  rw [hx, hy, hi, List.map_congr_left fun r hr => hrows r (List.mem_range.1 hr)]

/-! ### Flags, collisions and displays -/

theorem flagByte_eq_zero_or_one (b : Bool) : flagByte b = 0 ∨ flagByte b = 1 := by
  cases b
  · exact .inl rfl
  · exact .inr rfl

theorem flagByte_eq_one_iff (b : Bool) : flagByte b = 1 ↔ b = true := by
  cases b <;> decide

/-- R194 under both readings: the cell was lit, under a 1 bit if the parameter asks for one. -/
theorem collide_eq_true_iff (g src dst : Bool) :
    collide g src dst = true ↔ dst = true ∧ (g = true → src = true) := by
  cases g <;> simp [collide, and_comm]

/-- A display is its cells. -/
theorem Display.ext_pixel {d e : Display} (h : ∀ px py, d.pixel px py = e.pixel px py) : d = e :=
  Vector.ext fun py hy => Vector.ext fun px hx => h ⟨px, hx⟩ ⟨py, hy⟩

/-! ### A draw that completes (R193, R194) -/

theorem exec_drw_completes (hb : n.toNat = 0 ∨ s.i.toNat + n.toNat - 1 < 4096) :
    ∃ t, exec (.drw x y n) s = .next t :=
  ⟨_, (exec_drw_eq_next_iff x y n).2 ⟨_, (s.memRead_eq_ok_iff _ _ _ _).2 ⟨by omega, rfl⟩, rfl⟩⟩

/-- What a draw writes is the outcome of the draw of the sprite at `I`. -/
theorem exec_drw_eq_drawSprite (h : exec (.drw x y n) s = .next t) :
    t.disp = (drawSprite s.config.drwCollisionGated s.disp (s.spriteAt x y n)).2 ∧
    t.getV vf = flagByte (drawSprite s.config.drwCollisionGated s.disp (s.spriteAt x y n)).1 := by
  obtain ⟨rows, hrows, rfl⟩ := (exec_drw_eq_next_iff x y n).1 h
  obtain ⟨-, rfl⟩ := (s.memRead_eq_ok_iff _ _ _ _).1 hrows
  exact ⟨rfl, by simp [State.spriteAt]⟩

/-- A sprite of at most 15 rows visits no cell twice, so the loop of R193 has its closed form. -/
theorem drawSprite_spriteAt (g : Bool) (d : Display) :
    (drawSprite g d (s.spriteAt x y n)).1 =
        ((s.spriteAt x y n).any fun p => collide g p.bit (d.pixel p.px p.py)) ∧
    ∀ px py, (drawSprite g d (s.spriteAt x y n)).2.pixel px py = (d.pixel px py ^^ s.spriteCovers x y n px py) := by
  have hn : n.toNat < 16 := n.isLt
  exact drawSprite_spec g d _ _ _ (by rw [List.length_map, List.length_range]; omega)

theorem exec_drw_pixel (h : exec (.drw x y n) s = .next t) (px : Fin 64) (py : Fin 32) :
    t.disp.pixel px py = (s.disp.pixel px py ^^ s.spriteCovers x y n px py) := by
  rw [(exec_drw_eq_drawSprite h).1]
  exact (drawSprite_spriteAt _ _).2 px py

theorem exec_drw_vf (h : exec (.drw x y n) s = .next t) : t.getV vf =
    flagByte ((s.spriteAt x y n).any fun p => collide s.config.drwCollisionGated p.bit (s.disp.pixel p.px p.py)) := by
  rw [(exec_drw_eq_drawSprite h).2, (drawSprite_spriteAt _ _).1]

/-! ### `CLS` and `DRW` (R192 to R195) -/

/-- Settles O35: the display written is the blank one. -/
theorem clearScreenTurnsEveryCellOff : Obligations.ClearScreenTurnsEveryCellOff :=
  fun _ => ⟨_, rfl, Display.pixel_blank, rfl, rfl, exec_frame_of_bytes_eq_nil (i := .cls) rfl rfl⟩

/-- Settles O36: a cell XORed with a bit changes exactly when the bit is 1. -/
theorem drawXorsTheWrappedSprite : Obligations.DrawXorsTheWrappedSprite := by
  intro x y n s
  refine ⟨fun hb => ?_, fun h1 h2 => (exec_drw_eq_fault_iff s _ x y n).2 ⟨⟨h1, h2⟩, rfl⟩⟩
  obtain ⟨t, h⟩ := exec_drw_completes (x := x) (y := y) hb
  refine ⟨t, h, fun px py => ?_, ?_, exec_pc _ h, exec_frame_of_bytes_eq_nil h rfl⟩
  · rw [exec_drw_pixel h, ← State.spriteCovers_eq_true_iff]
    cases s.spriteCovers x y n px py <;> simp
  · rw [exec_dirty h]; exact Bool.or_true _

/-- Settles O37: the flag is that of the collision test over the sprite's pixels. -/
theorem drawSetsTheCollisionFlag : Obligations.DrawSetsTheCollisionFlag := by
  intro x y n s t h
  rw [exec_drw_vf h]
  refine ⟨flagByte_eq_zero_or_one _, ?_⟩
  simp only [flagByte_eq_one_iff, State.any_spriteAt, collide_eq_true_iff, State.spritePixelAt]

/-- Settles O38: the second draw XORs every cell with the same bit as the first. -/
theorem drawingTwiceRestoresTheDisplay : Obligations.DrawingTwiceRestoresTheDisplay := by
  intro x y n s t u v hst hdisp hx hy hi hrows huv
  refine Display.ext_pixel fun px py => ?_
  have hcovers : u.spriteCovers x y n px py = s.spriteCovers x y n px py := by
    rw [State.spriteCovers, State.spriteAt_congr hx hy hi hrows, ← State.spriteCovers]
  rw [exec_drw_pixel huv, hdisp, exec_drw_pixel hst, hcovers, Bool.xor_assoc, Bool.xor_self, Bool.xor_false]

/-- Settles O39: without a lit cell VF is not 1, and a 1 bit on a lit cell is a collision under either parameter. -/
theorem collisionUnderBothReadings : Obligations.CollisionUnderBothReadings := by
  intro x y n s t h lit bit
  obtain ⟨hvalue, hone⟩ := drawSetsTheCollisionFlag x y n s t h
  constructor
  · intro hoff
    refine hvalue.resolve_right fun h1 => ?_
    obtain ⟨r, hr, c, hc, hlit, -⟩ := hone.1 h1
    exact Bool.false_ne_true ((hoff r hr c hc).symm.trans hlit)
  · rintro ⟨r, hr, c, hc, hbit⟩ hon
    exact hone.2 ⟨r, hr, c, hc, hon r hr c hc hbit, fun _ => hbit⟩

/-! ### The queries (R196, R197) -/

/-- A transaction that answers a bit and leaves the machine as it was leaves the system as it was, faulted or not. -/
theorem transact_of_bit {q : Transaction} {sys : System} {b : Bool} (hs : sys.machine = some s)
    (hq : transactOn q s = some (.bit b, s)) : transact q sys = some (.bit b, sys) := by
  have hreset : ∀ image, q ≠ .reset image := by rintro image rfl; cases hq
  refine (transact_eq_some_iff q hreset _ _ _).2 ⟨s, s, hs, hq, ?_⟩
  rw [Response.error_bit, Option.or_none, ← hs]

/-- Settles O57: both queries are such transactions. -/
theorem queriesReadAndChangeNothing : Obligations.QueriesReadAndChangeNothing :=
  fun _ _ _ => ⟨transact_of_bit rfl rfl, transact_of_bit rfl rfl⟩

end Sys2Proof.Machine
end

section
/-! SUPPORT. Schedules on an existing machine: a transaction without error, one transaction many times, and one schedule
after another (00_scope.md R10). -/

namespace Sys2Proof.Machine

variable {s t : State} {q : Transaction} {r : Response} {c : Config} {sys sys₁ sys₂ : System}

/-- A transaction that reports no error replaces the machine and records nothing. -/
theorem transact_of_transactOn (hq : transactOn q s = some (r, t)) (hr : r.error = none) :
    transact q { config := c, machine := some s } = some (r, { config := c, machine := some t }) := by
  have hreset : ∀ image, q ≠ .reset image := by rintro image rfl; cases hq
  exact (transact_eq_some_iff q hreset _ _ _).2 ⟨s, t, rfl, hq, by rw [hr]; rfl⟩

theorem transact_step_of_next (h : step s = .next t) :
    transact .step { config := c, machine := some s } = some (.ok, { config := c, machine := some t }) :=
  transact_of_transactOn (by simp [transactOn, stepResponse, State.afterStep, h]) rfl

theorem runSchedule_cons (hq : transact q sys = some (r, sys₁)) {rest : List Transaction} {later : List Response}
    (hrest : runSchedule rest sys₁ = some (later, sys₂)) : runSchedule (q :: rest) sys = some (r :: later, sys₂) :=
  (runSchedule_cons_eq_some_iff q rest sys sys₂ _).2 ⟨r, sys₁, later, hq, hrest, rfl⟩

/-- A transaction that leaves the system as it was does so any number of times. -/
theorem runSchedule_replicate (hq : transact q sys = some (r, sys)) (n : Nat) :
    runSchedule (List.replicate n q) sys = some (List.replicate n r, sys) := by
  induction n with
  | zero => rfl
  | succ n ih => exact runSchedule_cons hq ih

theorem runSchedule_append {later : List Response} {second : List Transaction}
    (hsecond : runSchedule second sys₁ = some (later, sys₂)) : ∀ {first sys responses},
    runSchedule first sys = some (responses, sys₁) →
    runSchedule (first ++ second) sys = some (responses ++ later, sys₂) := by
  intro first
  induction first with
  | nil => intro sys responses h; cases h; exact hsecond
  | cons q rest ih =>
    intro sys responses h
    obtain ⟨r, sys', between, hq, hrest, rfl⟩ := (runSchedule_cons_eq_some_iff q rest sys sys₁ _).1 h
    exact runSchedule_cons hq (ih hrest)

end Sys2Proof.Machine
end

section
/-! SUPPORT. The statements of 44_keypad.md: the key a register selects, the three moves of the key wait, the KEY
transaction, and the whole wait as a schedule. -/

namespace Sys2Proof.Machine

variable {s : State} {x : Nibble}

/-! ### Key numbers (R213, R216) -/

theorem keyOf_eq_ofNat (a : Byte) : keyOf a = BitVec.ofNat 4 (a.toNat % 16) := by
  apply BitVec.eq_of_toNat_eq
  simp [keyOf]

theorem zextKey_toNat (k : Nibble) : (zextKey k).toNat = k.toNat :=
  BitVec.toNat_setWidth_of_le (by decide)

/-! ### The instructions (R214 to R216) -/

/-- Settles O40: the two rows of the `pc` table, and the key is the low nibble's. -/
theorem keySkipsTestTheLowNibbleKey : Obligations.KeySkipsTestTheLowNibbleKey := by
  intro x s k
  have hk : k = keyOf (s.getV x) := (keyOf_eq_ofNat _).symm
  rw [hk]
  exact ⟨⟨_, rfl, exec_frame_of_bytes_eq_nil (i := .skp x) rfl rfl, exec_pc (.skp x) rfl⟩,
    ⟨_, rfl, exec_frame_of_bytes_eq_nil (i := .sknp x) rfl rfl, exec_pc (.sknp x) rfl⟩⟩

theorem exec_ldVxK_of_idle (x : Nibble) (h : s.kw = .idle) : exec (.ldVxK x) s = .next (s.setKw .armed) :=
  (exec_ldVxK_eq_next_iff x).2 (.inl ⟨h, rfl⟩)

theorem exec_ldVxK_of_armed (x : Nibble) (h : s.kw = .armed) : exec (.ldVxK x) s = .next s :=
  (exec_ldVxK_eq_next_iff x).2 (.inr (.inl ⟨h, rfl⟩))

theorem exec_ldVxK_of_captured (x : Nibble) {k : Nibble} (h : s.kw = .captured k) :
    exec (.ldVxK x) s = .next ((s.setV x (zextKey k)).setKw .idle).advance :=
  (exec_ldVxK_eq_next_iff x).2 (.inr (.inr ⟨k, h, rfl⟩))

/-- Settles O41: the three cases of the instruction; arming names no register, so its frame is narrower than the row. -/
theorem keyWaitArmsWaitsAndConsumes : Obligations.KeyWaitArmsWaitsAndConsumes := by
  intro x s
  refine ⟨fun h => ?_, exec_ldVxK_of_armed x, fun k h => ?_⟩
  · exact ⟨_, exec_ldVxK_of_idle x h, rfl, rfl, (Frame.refl _ s).setKw _ rfl⟩
  · have hx := exec_ldVxK_of_captured x h
    exact ⟨_, hx, by simp [zextKey_toNat], rfl, rfl, exec_frame_of_bytes_eq_nil hx rfl⟩

/-! ### The KEY transaction (R212) -/

theorem State.key_eq_update (s : State) (k : Nibble) (p : Bool) :
    s.key k p = { s with keys := (s.key k p).keys, kw := (s.key k p).kw } := by
  unfold State.key; split <;> rfl

/-- Settles O42: the state is that of `State.key`, whose keys and key wait are the only fields that change. -/
theorem keySetsItsFlagAndCapturesAnEdge : Obligations.KeySetsItsFlagAndCapturesAnEdge :=
  fun k p s => ⟨s.key k p, transact_of_transactOn rfl rfl, fun j => s.keyDown_key k j p, s.key_kw k p,
    s.key_eq_update k p⟩

theorem State.key_kw_of_edge {k : Nibble} (hkw : s.kw = .armed) (hup : s.keyDown k = false) :
    (s.key k true).kw = .captured k := by
  rw [State.key_kw, if_pos ⟨hkw, hup, rfl⟩]

/-! ### The whole wait (R210) -/

/-- The state a key wait stays in from its first STEP until a key goes down. -/
def State.awaitingKey (s : State) : State := s.clearDirty.setKw .armed

theorem State.fetchInstr_awaitingKey (s : State) : s.awaitingKey.fetchInstr = s.fetchInstr := rfl

theorem State.fetchInstr_key (s : State) (k : Nibble) (p : Bool) : (s.key k p).fetchInstr = s.fetchInstr :=
  State.fetchInstr_congr _ _ (s.key_pc k p) (s.key_mem k p) (s.key_config k p)

theorem step_of_idle (hi : s.fetchInstr = .ok (.ldVxK x)) (hkw : s.kw = .idle) : step s = .next s.awaitingKey :=
  (step_eq_exec hi).trans (exec_ldVxK_of_idle x hkw)

theorem step_awaitingKey (hi : s.fetchInstr = .ok (.ldVxK x)) : step s.awaitingKey = .next s.awaitingKey :=
  (step_eq_exec (s.fetchInstr_awaitingKey.trans hi)).trans (exec_ldVxK_of_armed x rfl)

/-- The first STEP arms; every later one changes nothing. -/
theorem runSchedule_steps_awaitingKey (c : Config) (n : Nat) (hi : s.fetchInstr = .ok (.ldVxK x)) (hkw : s.kw = .idle) :
    runSchedule (List.replicate (n + 1) .step) { config := c, machine := some s } =
      some (List.replicate (n + 1) .ok, { config := c, machine := some s.awaitingKey }) :=
  runSchedule_cons (transact_step_of_next (step_of_idle hi hkw))
    (runSchedule_replicate (transact_step_of_next (step_awaitingKey hi)) n)

/-- KEY captures the edge on an armed machine, and the next STEP consumes it. -/
theorem runSchedule_edge_step (c : Config) {k : Nibble} (hi : s.fetchInstr = .ok (.ldVxK x)) (hkw : s.kw = .armed)
    (hup : s.keyDown k = false) : ∃ t, runSchedule [.key k true, .step] { config := c, machine := some s } =
      some ([.silent, .ok], { config := c, machine := some t }) ∧
      (t.getV x).toNat = k.toNat ∧ t.kw = .idle ∧ t.pc = s.pc + 2 ∧ t.keyDown k = true := by
  have hcaptured : (s.key k true).clearDirty.kw = .captured k := State.key_kw_of_edge hkw hup
  have hstep := (step_eq_exec ((s.fetchInstr_key k true).trans hi)).trans (exec_ldVxK_of_captured x hcaptured)
  refine ⟨_, runSchedule_cons (transact_of_transactOn rfl rfl) (runSchedule_cons (transact_step_of_next hstep) rfl),
    ?_, rfl, ?_, ?_⟩
  · simp [zextKey_toNat]
  · simp
  · simp

/-- Settles O43: the waiting machine stays armed until the edge, and is then one STEP from the end. -/
theorem keyWaitCompletesAfterOneEdge : Obligations.KeyWaitCompletesAfterOneEdge := by
  intro x k n s hi hkw hup
  have hwait := runSchedule_steps_awaitingKey s.config n hi hkw
  obtain ⟨t, hedge, hdone⟩ := runSchedule_edge_step s.config (s.fetchInstr_awaitingKey.trans hi) rfl hup
  exact ⟨⟨s.awaitingKey, hwait, rfl, rfl⟩, t, runSchedule_append hedge hwait, hdone⟩

end Sys2Proof.Machine
end

section
/-! SUPPORT. The statements of 45_timer_index_memory.md: the moves through the timers and `I`, the decimal digits, and
the block moves between the registers and memory, with the load reading back what the store left. -/

namespace Sys2Proof.Machine

variable {s t : State} {x : Nibble}

/-! ### The timers and the index register (R231 to R236) -/

/-- Settles O44: one register or one timer is written, with a byte read before the write. -/
theorem timerMovesCopyTheirSource : Obligations.TimerMovesCopyTheirSource :=
  fun x _ => ⟨completes_of_setV rfl, ⟨_, rfl, rfl, rfl, exec_frame_of_bytes_eq_nil (i := .ldDtVx x) rfl rfl⟩,
    ⟨_, rfl, rfl, rfl, exec_frame_of_bytes_eq_nil (i := .ldStVx x) rfl rfl⟩⟩

theorem completes_of_setI {i : Instr} {a : Word} {n : Nat} (h : exec i s = .next (s.setI a).advance)
    (ha : a.toNat = n) :
    ∃ t, exec i s = .next t ∧ t.i.toNat = n ∧ t.pc = s.pc + 2 ∧ Frame { i := true } s t :=
  ⟨_, h, ha, rfl, ((Frame.refl _ s).setI a rfl).advance⟩

/-- Settles O46: widening `nnn` to 16 bits keeps its value. -/
theorem loadIndexZeroExtends : Obligations.LoadIndexZeroExtends :=
  fun nnn _ => completes_of_setI rfl (zextAddr_toNat nnn)

theorem toNat_add_zextByte (a : Word) (b : Byte) : (a + zextByte b).toNat = (a.toNat + b.toNat) % 65536 := by
  rw [BitVec.toNat_add, zextByte_toNat]

/-- Five times a byte is at most 1275, so the 16-bit product is exact (D11). -/
theorem glyphAddress_toNat (b : Byte) : (glyphAddress b).toNat = 5 * b.toNat := by
  have hb : b.toNat < 256 := b.isLt
  have hmul : (glyphAddress b).toNat = 5 * b.toNat % 65536 := by
    rw [glyphAddress, BitVec.toNat_mul, zextByte_toNat]; rfl
  rw [hmul, Nat.mod_eq_of_lt (by omega)]

/-- Settles O47: the sum is reduced modulo 65536, the product needs no reduction, and only `I` is written. -/
theorem indexSumAndGlyphAddress : Obligations.IndexSumAndGlyphAddress :=
  fun _ _ => ⟨completes_of_setI rfl (toNat_add_zextByte ..), completes_of_setI rfl (glyphAddress_toNat _)⟩

/-! ### The decimal digits (R237) -/

/-- A digit fits in the byte that is stored for it. -/
theorem toNat_byte_ofNat_digit {n : Nat} (hn : n < 10) : (BitVec.ofNat 8 n).toNat = n := by
  rw [BitVec.toNat_ofNat, Nat.mod_eq_of_lt (by omega)]

@[simp] theorem bcdDigits_length (b : Byte) : (bcdDigits b).length = 3 := rfl

/-- The cells `LD B,Vx` writes hold the three digits in order. -/
theorem exec_ldB_readByte (hwf : Memory.wf s.config s.mem = true) (h : exec (.ldB x) s = .next t) {j : Nat}
    (hj : j < (bcdDigits (s.getV x)).length) : t.readByte (s.i.toNat + j) = (bcdDigits (s.getV x))[j] := by
  obtain ⟨-, rfl⟩ := (exec_ldB_eq_next_iff x).1 h
  rw [State.readByte_advance, State.readByte_writeBytes _ s _ _ (Memory.rising_of_wf hwf), dif_pos (by omega)]
  simp only [Nat.add_sub_cancel_left]

/-- Settles O48: below the bound the three cells at `I` hold the digits, and the row names these cells alone. -/
theorem bcdStoresTheThreeDigits : Obligations.BcdStoresTheThreeDigits := by
  refine fun x s hwf => ⟨fun hb => ?_, fun hb => (exec_ldB_eq_fault_iff s _ x).2 ⟨hb, rfl⟩⟩
  obtain ⟨t, h⟩ : ∃ t, exec (.ldB x) s = .next t := ⟨_, (exec_ldB_eq_next_iff x).2 ⟨by omega, rfl⟩⟩
  have hhundreds : t.readByte s.i.toNat = BitVec.ofNat 8 ((s.getV x).toNat / 100) :=
    exec_ldB_readByte hwf h (j := 0) (by simp)
  have htens : t.readByte (s.i.toNat + 1) = BitVec.ofNat 8 ((s.getV x).toNat / 10 % 10) :=
    exec_ldB_readByte hwf h (by simp)
  have hones : t.readByte (s.i.toNat + 2) = BitVec.ofNat 8 ((s.getV x).toNat % 10) :=
    exec_ldB_readByte hwf h (by simp)
  have hbyte : (s.getV x).toNat < 256 := (s.getV x).isLt
  exact ⟨t, h, hhundreds ▸ toNat_byte_ofNat_digit (by omega), htens ▸ toNat_byte_ofNat_digit (by omega),
    hones ▸ toNat_byte_ofNat_digit (by omega), exec_pc _ h, everyInstructionWritesOnlyItsRow _ s t hwf h⟩

/-! ### The block moves (R238, R239) -/

/-- Settles O49: every register up to `x` stands in its own cell, and the row names these cells alone. -/
theorem blockStoreCopiesTheRegisters : Obligations.BlockStoreCopiesTheRegisters := by
  refine fun x s hwf => ⟨fun hb => ?_, fun hb => (exec_ldMemVx_eq_fault_iff s _ x).2 ⟨hb, rfl⟩⟩
  obtain ⟨t, h⟩ : ∃ t, exec (.ldMemVx x) s = .next t := ⟨_, (exec_ldMemVx_eq_next_iff x).2 ⟨hb, rfl⟩⟩
  exact ⟨t, h, fun _ => exec_ldMemVx_readByte hwf h, exec_pc _ h, everyInstructionWritesOnlyItsRow _ s t hwf h⟩

/-- The registers that `LD Vx,[I]` fills hold the bytes at `I`, each the byte at its own distance. -/
theorem exec_ldVxMem_getV (h : exec (.ldVxMem x) s = .next t) (r : Nibble) :
    t.getV r = if r.toNat ≤ x.toNat then s.readByte (s.i.toNat + r.toNat) else s.getV r := by
  obtain ⟨-, rfl⟩ := (exec_ldVxMem_eq_next_iff x).1 h
  have hx : x.toNat < 16 := x.isLt
  rw [State.getV_advance, State.getV_setVs _ _ _ _ (by simp [blockCount]; omega)]
  simp [blockCount]

/-- Settles O50: the bytes go to the registers up to `x`, which the row names alone. -/
theorem blockLoadFillsTheRegisters : Obligations.BlockLoadFillsTheRegisters := by
  refine fun x s => ⟨fun hb => ?_, fun hb => (exec_ldVxMem_eq_fault_iff s _ x).2 ⟨hb, rfl⟩⟩
  obtain ⟨t, h⟩ : ∃ t, exec (.ldVxMem x) s = .next t := ⟨_, (exec_ldVxMem_eq_next_iff x).2 ⟨hb, rfl⟩⟩
  exact ⟨t, h, exec_ldVxMem_getV h, exec_pc _ h, exec_frame_of_bytes_eq_nil h rfl⟩

/-- Settles O51: the register loaded is the byte of its cell, where the store put the register's value. -/
theorem storedBlockLoadsBack : Obligations.StoredBlockLoadsBack := by
  intro x s t u v hwf hstore hi hbytes hload r hr
  calc v.getV r
    _ = u.readByte (u.i.toNat + r.toNat) := by rw [exec_ldVxMem_getV hload, if_pos hr]
    _ = t.readByte (s.i.toNat + r.toNat) := by rw [hi, hbytes]
    _ = s.getV r := exec_ldMemVx_readByte hwf hstore hr

end Sys2Proof.Machine
end

section
/-! SUPPORT. The statements of 60_exceptions.md: the table of R260, what a transaction on a machine can do, and what
every schedule keeps: the invariant, a recorded error, the record of the first one. -/

namespace Sys2Proof.Machine

variable {s t u : State} {e : Fault} {q : Transaction} {r : Response} {sys sys' : System}
  {schedule : List Transaction} {responses : List Response}

/-! ### The table of errors (R260) -/

/-- The rows of 60_exceptions.md R260 that the execute stage answers for: when `i`, executed on `s`, raises an error. -/
def State.Raises (s : State) (i : Instr) : Fault → Prop
  | .outOfBoundsLoad =>
    (∃ x y n, i = .drw x y n ∧ 1 ≤ n.toNat ∧ 4096 ≤ s.i.toNat + n.toNat - 1) ∨
      ∃ x, i = .ldVxMem x ∧ 4096 ≤ s.i.toNat + x.toNat
  | .outOfBoundsStore =>
    (∃ x, i = .ldB x ∧ 4096 ≤ s.i.toNat + 2) ∨ ∃ x, i = .ldMemVx x ∧ 4096 ≤ s.i.toNat + x.toNat
  | .stackUnderflow => i = .ret ∧ s.sp.val = 0
  | .stackOverflow => ∃ nnn, i = .call nnn ∧ s.sp.val = 16
  | .illegalOpcode => ∃ nnn, i = .sys nnn ∧ s.config.sysPolicy = .illegal
  | .outOfBoundsFetch | .loadError => False

theorem exec_eq_fault_iff (i : Instr) (s : State) (e : Fault) : exec i s = .fault e ↔ s.Raises i e := by
  cases i
  case sys | ret | call | drw | ldB | ldMemVx | ldVxMem =>
    cases e <;> simp [State.Raises, exec_sys_eq_fault_iff, exec_ret_eq_fault_iff, exec_call_eq_fault_iff,
      exec_drw_eq_fault_iff, exec_ldB_eq_fault_iff, exec_ldMemVx_eq_fault_iff, exec_ldVxMem_eq_fault_iff]
  case ldVxK x =>
    have hnext : exec (.ldVxK x) s ≠ .fault e := by simp only [exec, execLdVxK]; split <;> simp
    cases e <;> simp [State.Raises, hnext]
  all_goals exact iff_of_false nofun (by cases e <;> simp [State.Raises])

theorem step_eq_fault_iff (s : State) (e : Fault) :
    step s = .fault e ↔ s.fetchInstr = .error e ∨ ∃ i, s.fetchInstr = .ok i ∧ s.Raises i e := by
  cases h : s.fetchInstr with
  | error e' => simp [step_eq_fault h]
  | ok i =>
    have hclear : s.clearDirty.Raises i e ↔ s.Raises i e := by cases e <;> rfl
    simp [step_eq_exec h, exec_eq_fault_iff, hclear]

/-- Past the fetch, a STEP fails where the word at `pc` is illegal or its instruction raises an error. -/
theorem step_eq_fault_iff_of_ne (s : State) (he : e ≠ .outOfBoundsFetch) :
    let w := wordOfBytes (s.readByte s.pc.toNat) (s.readByte (s.pc.toNat + 1))
    step s = .fault e ↔ s.pc.toNat ≤ 4094 ∧
      ((decodeWord w = .error .illegalOpcode ∧ e = .illegalOpcode) ∨ ∃ i, decodeWord w = .ok i ∧ s.Raises i e) := by
  intro w
  have herror : s.fetchInstr = .error e ↔
      s.pc.toNat ≤ 4094 ∧ decodeWord w = .error .illegalOpcode ∧ e = .illegalOpcode := by
    rw [State.fetchInstr_eq_error_iff]
    constructor
    · rintro (hf | ⟨w', d, hw, hd, rfl⟩)
      · exact absurd ((s.fetchWord_eq_error_iff e).1 hf).2 he
      · obtain ⟨hpc, rfl⟩ := (s.fetchWord_eq_ok_iff w').1 hw
        obtain ⟨rfl, -⟩ := (decodeWord_eq_error_iff _ d).1 hd
        exact ⟨hpc, hd, rfl⟩
    · rintro ⟨hpc, hd, rfl⟩
      exact .inr ⟨w, _, (s.fetchWord_eq_ok_iff w).2 ⟨hpc, rfl⟩, hd, rfl⟩
  simp only [step_eq_fault_iff, herror, State.fetchInstr_eq_ok_iff, and_or_left, exists_and_left, and_assoc, w]

/-- Settles O9: the error of the stage that fails, and in the execute stage the instruction's row of the table. -/
theorem executionErrorsExactlyWhen : Obligations.ExecutionErrorsExactlyWhen := by
  intro s w fetched
  refine ⟨step_eq_outOfBoundsFetch_iff s, ?_, ?_, ?_, ?_, ?_, ?_⟩
  -- Every other clause is the row of its error, read through the decoded instruction.
  all_goals simp [step_eq_fault_iff_of_ne, State.Raises, w, fetched, and_or_left, exists_or]

/-- Settles O11: an instruction completes or raises an error, and so does a STEP. -/
theorem noInstructionIsRefused : Obligations.NoInstructionIsRefused := by
  refine fun i s r => ⟨fun h => ?_, fun h => ?_⟩
  · obtain ⟨t, hx⟩ | ⟨e, hx⟩ := exec_next_or_fault i s <;> cases hx.symm.trans h
  · obtain ⟨t, hx⟩ | ⟨e, hx⟩ := step_next_or_fault s <;> cases hx.symm.trans h

/-- Whether the next STEP fails, and how, is decided by `pc`, memory, the configuration, `I` and SP. -/
theorem step_eq_fault_congr (h : step s = .fault e) (hpc : u.pc = s.pc) (hmem : u.mem = s.mem)
    (hc : u.config = s.config) (hi : u.i = s.i) (hsp : u.sp = s.sp) : step u = .fault e := by
  have hraises (i : Instr) : u.Raises i e ↔ s.Raises i e := by cases e <;> simp only [State.Raises, hc, hi, hsp]
  rw [step_eq_fault_iff] at h ⊢
  simpa only [State.fetchInstr_congr s u hpc hmem hc, hraises] using h

/-! ### A transaction on a machine -/

/-- Everything a transaction other than RESET can do on the machine `s`: its response and the machine afterwards. -/
inductive State.Moves (s : State) : Response → State → Prop
  | completed (t : State) (h : step s = .next t) : s.Moves .ok t
  | failed (e : Fault) (h : step s = .fault e) : s.Moves (.err e) s.afterError
  | ticked : s.Moves .silent s.tick
  | keyed (k : Nibble) (pressed : Bool) : s.Moves .silent (s.key k pressed)
  | answered (b : Bool) : s.Moves (.bit b) s

theorem moves_of_transactOn (h : transactOn q s = some (r, u)) : s.Moves r u := by
  cases q
  case reset => cases h
  case tick => cases h; exact .ticked
  case key k p => cases h; exact .keyed k p
  case dirtyQuery | pixelQuery => cases h; exact .answered _
  case step =>
    obtain ⟨t, ht⟩ | ⟨e, he⟩ := step_next_or_fault s
    · have hr : .ok = r ∧ t = u := by simpa [transactOn, stepResponse, State.afterStep, ht] using h
      obtain ⟨rfl, rfl⟩ := hr
      exact .completed t ht
    · have hr : .err e = r ∧ s.afterError = u := by simpa [transactOn, stepResponse, State.afterStep, he] using h
      obtain ⟨rfl, rfl⟩ := hr
      exact .failed e he

theorem step_config (h : step s = .next t) : t.config = s.config := by
  obtain ⟨i, -, hx⟩ := step_next_cases s t h
  exact (exec_writesOnly i hx).rest.config

namespace State.Moves

theorem config_eq (h : s.Moves r u) : u.config = s.config := by
  cases h
  case completed ht => exact step_config ht
  case keyed k p => exact s.key_config k p
  all_goals rfl

/-- A key wait that KEY leaves in progress was in progress before it, and TICK and the queries touch none. -/
theorem inv (h : s.Moves r u) (hs : s.Inv) : u.Inv := by
  cases h
  case completed ht => exact stepKeepsTheInvariant s u hs ht
  case failed => exact hs.clearDirty
  case ticked => exact { hs with }
  case answered => exact hs
  case keyed k p =>
    have hidle : s.kw = .idle → (s.key k p).kw = .idle := fun h => by simp [State.key_kw, h]
    exact {
      memory := by rw [State.key_config, State.key_mem]; exact hs.memory
      pcBound := by rw [State.key_pc]; exact hs.pcBound
      stackBound := by rw [State.key_sp, State.key_stack]; exact hs.stackBound
      waiting := fun hw => s.fetchInstr_key k p ▸ hs.waiting (mt hidle hw) }

/-- Only a STEP that fails reports an error. -/
theorem step_fault_of_error (h : s.Moves r u) (hr : r.error = some e) : step s = .fault e := by
  cases h
  case failed e' he => cases hr; exact he
  all_goals cases hr

/-- Once a STEP fails, nothing the host does but RESET lets the next one do anything else (R263 item 3). -/
theorem step_fault (h : s.Moves r u) (hs : step s = .fault e) : step u = .fault e := by
  cases h
  case completed ht => rw [ht] at hs; cases hs
  case failed | ticked => exact step_eq_fault_congr hs rfl rfl rfl rfl rfl
  case keyed k p =>
    exact step_eq_fault_congr hs (s.key_pc k p) (s.key_mem k p) (s.key_config k p) (s.key_i k p) (s.key_sp k p)
  case answered => exact hs

end State.Moves

/-! ### RESET (70_reset_and_hazards.md R300) -/

theorem State.load_eq_next_iff (c : Config) (image : List Byte) (t : State) : State.load c image = .next t ↔
    image.length ≤ 3584 ∧ t = (State.resetWith c).writeBytes 512 image := by
  unfold State.load
  split
  next h => simp [raise]; omega
  next h => simp [eq_comm]; omega

theorem State.load_config {c : Config} {image : List Byte} (h : State.load c image = .next t) : t.config = c := by
  obtain ⟨-, rfl⟩ := (State.load_eq_next_iff c image t).1 h
  exact State.writeBytes_config image _ _

/-- The image ends below 4096, and nothing else of the reset state matters to the invariant but `pc`, SP and KW. -/
theorem State.Inv.of_load {c : Config} {image : List Byte} (h : State.load c image = .next t) : t.Inv := by
  obtain ⟨hlen, rfl⟩ := (State.load_eq_next_iff c image t).1 h
  exact {
    memory := by
      rw [State.writeBytes_config]
      exact State.writeBytes_wf image (State.resetWith c) 512 (by omega) rfl
    pcBound := by rw [State.writeBytes_pc]; exact (by decide : 512 ≤ 4350)
    stackBound := fun j hj => absurd hj (by rw [State.writeBytes_sp]; exact Nat.not_lt_zero _)
    waiting := fun hw => absurd (State.writeBytes_kw image _ _) hw }

/-! ### What every schedule keeps -/

/-- A property of systems that each transaction of a schedule keeps is kept by the schedule. -/
theorem runSchedule_keeps {P : System → Prop}
    (hP : ∀ q ∈ schedule, ∀ x x' r, transact q x = some (r, x') → P x → P x')
    (h : runSchedule schedule sys = some (responses, sys')) (hs : P sys) : P sys' := by
  induction schedule generalizing sys responses with
  | nil => cases h; exact hs
  | cons q rest ih =>
    obtain ⟨hPq, hPrest⟩ := List.forall_mem_cons.1 hP
    obtain ⟨r, sys₁, later, hq, hrest, -⟩ := (runSchedule_cons_eq_some_iff q rest sys sys' responses).1 h
    exact ih hPrest hrest (hPq sys sys₁ r hq hs)

theorem transact_reset_inv {image : List Byte} (h : transact (.reset image) sys = some (r, sys')) :
    sys'.Inv ∧ sys'.config = sys.config := by
  simp only [transact] at h
  split at h
  next t ht =>
    cases h
    refine ⟨?_, rfl⟩
    rintro _ ⟨⟩
    have hconfig : t.config = sys.config := State.load_config ht
    exact ⟨hconfig, { State.Inv.of_load ht with }, nofun⟩
  next => cases h; exact ⟨nofun, rfl⟩
  next => cases h

theorem transact_inv (h : transact q sys = some (r, sys')) (hsys : sys.Inv) : sys'.Inv ∧ sys'.config = sys.config := by
  by_cases hreset : ∃ image, q = .reset image
  · obtain ⟨image, rfl⟩ := hreset; exact transact_reset_inv h
  obtain ⟨s, u, hs, hq, rfl⟩ := (transact_eq_some_iff q (not_exists.1 hreset) sys sys' r).1 h
  obtain ⟨hconfig, hinv, hrecord⟩ := hsys s hs
  have hmove := moves_of_transactOn hq
  refine ⟨?_, rfl⟩
  rintro _ ⟨⟩
  refine ⟨hmove.config_eq.trans hconfig, hmove.inv hinv, fun e he => hmove.step_fault ?_⟩
  obtain hold | ⟨-, hnew⟩ := Option.or_eq_some_iff.1 he
  · exact hrecord e hold
  · exact hmove.step_fault_of_error hnew

/-- Settles O17: each transaction keeps the invariant and the configuration. -/
theorem everyScheduleKeepsTheInvariant : Obligations.EveryScheduleKeepsTheInvariant := by
  intro schedule sys sys' responses hsys h
  refine runSchedule_keeps (P := fun x => x.Inv ∧ x.config = sys.config) ?_ h ⟨hsys, rfl⟩
  rintro q - x x' r hq ⟨hinv, hconfig⟩
  obtain ⟨hinv', hconfig'⟩ := transact_inv hq hinv
  exact ⟨hinv', hconfig'.trans hconfig⟩

/-! ### Recorded errors (R263) -/

/-- `e` is recorded, and every STEP fails with it. -/
def System.FailsWith (e : Fault) (sys : System) : Prop :=
  sys.firstError = some e ∧ ∀ s, sys.machine = some s → step s = .fault e

theorem System.FailsWith.of_transact (hsys : sys.FailsWith e) (hreset : ∀ image, q ≠ .reset image)
    (h : transact q sys = some (r, sys')) : sys'.FailsWith e := by
  obtain ⟨s, u, hs, hq, rfl⟩ := (transact_eq_some_iff q hreset sys sys' r).1 h
  obtain ⟨hrecord, hstep⟩ := hsys
  refine ⟨by simp [hrecord], ?_⟩
  rintro _ ⟨⟩
  exact (moves_of_transactOn hq).step_fault (hstep s hs)

/-- Settles O10: the STEP leaves `State.afterError`, on which a STEP fails alike, and so on over the schedule. -/
theorem errorsArePreciseAndPersistent : Obligations.ErrorsArePreciseAndPersistent := by
  intro s e h
  have hafter := State.afterStep_of_fault s e h
  refine ⟨?_, hafter, fun schedule responses sys u hreset hrun hu => ?_⟩
  · exact (transact_eq_some_iff .step nofun _ _ _).2
      ⟨s, s.afterStep, rfl, by simp [transactOn, stepResponse, h], rfl⟩
  have hstart : System.FailsWith e { config := s.config, machine := some s.afterStep, firstError := some e } := by
    refine ⟨rfl, ?_⟩
    rintro _ ⟨⟩
    rw [hafter]
    exact (State.Moves.failed e h).step_fault h
  obtain ⟨hrecord, hstep⟩ : sys.FailsWith e := runSchedule_keeps
    (fun q hq _ _ _ hx hfails => hfails.of_transact (fun image hi => hreset image (hi ▸ hq)) hx) hrun hstart
  exact ⟨hstep u hu, hrecord⟩

/-- Without RESET the record is the one before, or else the first error among the responses. -/
theorem runSchedule_firstError (hreset : ∀ image, Transaction.reset image ∉ schedule)
    (h : runSchedule schedule sys = some (responses, sys')) :
    sys'.firstError = sys.firstError.or (responses.findSome? Response.error) := by
  induction schedule generalizing sys responses with
  | nil => cases h; simp
  | cons q rest ih =>
    obtain ⟨r, sys₁, later, hq, hrest, rfl⟩ := (runSchedule_cons_eq_some_iff q rest sys sys' responses).1 h
    have hne : ∀ image, q ≠ .reset image := fun image hi => hreset image (hi ▸ List.mem_cons_self)
    obtain ⟨s, u, -, -, rfl⟩ := (transact_eq_some_iff q hne sys sys₁ r).1 hq
    rw [ih (fun image hi => hreset image (List.mem_cons_of_mem q hi)) hrest, List.findSome?_cons, Option.or_assoc]
    cases r.error <;> rfl

/-- Settles O59: the record is the first error of the run, and both a safe run and an end state ask for none. -/
theorem firstErrorIsStickyUntilReset : Obligations.FirstErrorIsStickyUntilReset := by
  intro schedule responses sys sys' hreset h
  have hrecord := runSchedule_firstError hreset h
  refine ⟨hrecord, fun e he => ?_⟩
  have hsticky : sys'.firstError = some e := by rw [hrecord, he]; rfl
  have hnone : ∀ responses' sys'', runSchedule schedule sys = some (responses', sys'') → sys''.firstError ≠ none := by
    intro responses' sys'' h'
    cases h.symm.trans h'
    simp [hsticky]
  refine ⟨hsticky, ?_, ?_⟩
  · rintro ⟨responses', sys'', h', -, hclean⟩; exact hnone _ _ h' hclean
  · rintro s ⟨responses', sys'', h', hclean, -⟩; exact hnone _ _ h' hclean

/-! ### TICK, KEY and the queries (R261, R275) -/

/-- A transaction other than STEP and RESET is accepted on a machine, reports no error and leaves a machine. -/
theorem transact_host_move (hsys : sys.machine ≠ none) (hstep : q ≠ .step) (hreset : ∀ image, q ≠ .reset image) :
    ∃ r sys', transact q sys = some (r, sys') ∧ r.error = none ∧ sys'.machine ≠ none := by
  obtain ⟨s, hs⟩ := Option.ne_none_iff_exists'.1 hsys
  obtain ⟨r, u, hq, hr⟩ : ∃ r u, transactOn q s = some (r, u) ∧ r.error = none := by
    cases q
    case step => exact absurd rfl hstep
    case reset image => exact absurd rfl (hreset image)
    all_goals exact ⟨_, _, rfl, rfl⟩
  exact ⟨r, _, (transact_eq_some_iff q hreset sys _ r).2 ⟨s, u, hs, hq, rfl⟩, hr, Option.some_ne_none u⟩

theorem runSchedule_host_moves (hsys : sys.machine ≠ none)
    (hmoves : ∀ q ∈ schedule, q ≠ .step ∧ ∀ image, q ≠ .reset image) :
    ∃ responses sys', runSchedule schedule sys = some (responses, sys') ∧ ∀ r ∈ responses, r.error = none := by
  induction schedule generalizing sys with
  | nil => exact ⟨[], _, rfl, nofun⟩
  | cons q rest ih =>
    obtain ⟨⟨hstep, hreset⟩, hlater⟩ := List.forall_mem_cons.1 hmoves
    obtain ⟨r, sys₁, hq, hr, hmachine⟩ := transact_host_move hsys hstep hreset
    obtain ⟨later, sys', hrest, hclean⟩ := ih hmachine hlater
    exact ⟨r :: later, sys', runSchedule_cons hq hrest, List.forall_mem_cons.2 ⟨hr, hclean⟩⟩

/-- Settles O58: no response is an error, so the record is the one before. -/
theorem hostMovesNeverFail : Obligations.HostMovesNeverFail := by
  intro schedule sys hsys hmoves
  obtain ⟨responses, sys', hrun, hclean⟩ := runSchedule_host_moves hsys hmoves
  have hnoErr : ∀ e, Response.err e ∉ responses := fun e he => nomatch hclean _ he
  have hrecord : sys'.firstError = sys.firstError := by
    have hnoReset : ∀ image, Transaction.reset image ∉ schedule := fun image hi => (hmoves _ hi).2 image rfl
    rw [runSchedule_firstError hnoReset hrun, List.findSome?_eq_none_iff.2 hclean, Option.or_none]
  exact ⟨⟨responses, sys', hrun, hnoErr, hrecord⟩, fun hnone => ⟨responses, sys', hrun, hnoErr, hrecord.trans hnone⟩⟩

theorem tickTimer_toNat (b : Byte) : (tickTimer b).toNat = b.toNat - 1 := by
  unfold tickTimer
  split
  next h => simp [h]
  next => bv_omega

theorem tickTimer_iterate_toNat (n : Nat) (b : Byte) : (tickTimer^[n] b).toNat = b.toNat - n := by
  induction n with
  | zero => rfl
  | succ n ih => rw [Function.iterate_succ_apply', tickTimer_toNat, ih, Nat.sub_sub]

/-- The timers count down independently, and nothing else moves. -/
theorem State.tick_iterate (n : Nat) (s : State) :
    State.tick^[n] s = { s with dt := tickTimer^[n] s.dt, st := tickTimer^[n] s.st } := by
  induction n generalizing s with
  | zero => rfl
  | succ n ih => exact ih s.tick

theorem runSchedule_ticks (c : Config) (n : Nat) (s : State) :
    runSchedule (List.replicate n .tick) { config := c, machine := some s } =
      some (List.replicate n .silent, { config := c, machine := some (State.tick^[n] s) }) := by
  induction n generalizing s with
  | zero => rfl
  | succ n ih => exact runSchedule_cons (transact_of_transactOn rfl rfl) (ih s.tick)

/-- Settles O45: `n` TICKs are one countdown by `n` of each timer. -/
theorem ticksCountDownToZero : Obligations.TicksCountDownToZero := by
  intro n s
  refine ⟨State.tick^[n] s, runSchedule_ticks s.config n s, ?_⟩
  rw [State.tick_iterate]
  exact ⟨tickTimer_iterate_toNat n s.dt, tickTimer_iterate_toNat n s.st, rfl,
    { Frame.refl _ s with dt := nofun, st := nofun }⟩

end Sys2Proof.Machine
end

section
/-! SUPPORT. The statements of 70_reset_and_hazards.md: the state that RESET leaves, field by field (R300), what RESET
does to a system (R301), and the settled states, whose next instruction is a jump to itself (R309). -/

namespace Sys2Proof.Machine

variable {s t : State} {e : Fault} {image : List Byte} {sys : System}

/-! ### The state RESET leaves (R300) -/

theorem State.load_eq_fault_iff (c : Config) (image : List Byte) (e : Fault) :
    State.load c image = .fault e ↔ 3584 < image.length ∧ e = .loadError := by
  unfold State.load
  split
  next h => simp [raise, h, eq_comm]
  next h => simp [h]

/-- Memory unlists every address in the reset state, so that each byte is its reset content (10_state.md R36). -/
@[simp] theorem State.readByte_resetWith (c : Config) (a : Nat) : (State.resetWith c).readByte a = resetByte c a := rfl

@[simp] theorem State.getV_resetWith (c : Config) (r : Nibble) : (State.resetWith c).getV r = 0 :=
  Vector.getElem_replicate _

@[simp] theorem State.keyDown_resetWith (c : Config) (k : Nibble) : (State.resetWith c).keyDown k = false :=
  Vector.getElem_replicate _

@[simp] theorem State.resetWith_stack_getElem (c : Config) (j : Nat) (hj : j < 16) : (State.resetWith c).stack[j] = 0 :=
  Vector.getElem_replicate _

@[simp] theorem State.resetWith_disp (c : Config) : (State.resetWith c).disp = Display.blank := rfl

/-- The bytes of a loaded machine: the image from 512 on, every other address its reset content. -/
theorem State.readByte_resetWith_writeBytes (c : Config) (image : List Byte) (a : Nat) :
    ((State.resetWith c).writeBytes 512 image).readByte a =
      if h : 512 ≤ a ∧ a - 512 < image.length then image[a - 512] else resetByte c a := by
  have hin : (512 ≤ a ∧ a < 512 + image.length) ↔ (512 ≤ a ∧ a - 512 < image.length) := by omega
  simp only [State.readByte_writeBytes image _ _ _ (show Memory.risingFrom 0 (State.resetWith c).mem = true from rfl),
    State.readByte_resetWith, hin]

/-- Settles O53: the load writes the image over the reset state, and a block write changes memory alone. -/
theorem resetLoadsTheImage : Obligations.ResetLoadsTheImage := by
  intro c image
  refine ⟨fun h => (State.load_eq_fault_iff c image _).2 ⟨h, rfl⟩, fun h => ?_⟩
  refine ⟨_, (State.load_eq_next_iff c image _).2 ⟨h, rfl⟩,
    fun a _ => State.readByte_resetWith_writeBytes c image a, ?_⟩
  refine ⟨by simp, State.writeBytes_i .., State.writeBytes_pc .., State.writeBytes_dt .., State.writeBytes_st ..,
    State.writeBytes_sp .., by simp, by simp, State.writeBytes_dirty .., by simp, State.writeBytes_kw ..,
    State.writeBytes_config ..⟩

/-- Settles O54: an empty image writes nothing over the reset state. -/
theorem resetStateIsTheEmptyImage : Obligations.ResetStateIsTheEmptyImage :=
  (State.load_eq_next_iff _ _ _).2 ⟨Nat.zero_le _, rfl⟩

/-! ### RESET on a system (R301) -/

theorem transact_reset_of_next (h : State.load sys.config image = .next t) : transact (.reset image) sys =
    some (.ok, { sys with machine := some { t with draws := sys.drawn }, firstError := none }) := by
  simp only [transact, h]

theorem transact_reset_of_fault (h : State.load sys.config image = .fault e) : transact (.reset image) sys =
    some (.err e, { sys with machine := none, draws := sys.drawn, firstError := some e }) := by
  simp only [transact, h]

theorem System.drawn_of_machine (h : sys.machine = some s) : sys.drawn = s.draws := by
  simp only [System.drawn, h]

/-- Without a machine the host has no move but RESET. -/
theorem transact_eq_none_of_no_machine {q : Transaction} (hreset : ∀ image, q ≠ .reset image)
    (h : sys.machine = none) : transact q sys = none := by
  refine Option.eq_none_iff_forall_ne_some.2 fun (r, sys') hq => ?_
  obtain ⟨s, -, hs, -⟩ := (transact_eq_some_iff q hreset sys sys' r).1 hq
  exact Option.some_ne_none s (hs.symm.trans h)

/-- Settles O55: the outcome of the load is RESET's answer, and after an error there is no machine left to act on. -/
theorem resetReplacesTheMachine : Obligations.ResetReplacesTheMachine := by
  intro image sys
  constructor
  · intro t ht
    exact ⟨_, transact_reset_of_next ht, rfl, rfl, _, rfl, rfl, fun s hs => System.drawn_of_machine hs⟩
  · intro e he
    exact ⟨_, transact_reset_of_fault he, rfl, rfl, rfl, fun q hq => transact_eq_none_of_no_machine hq rfl⟩

/-! ### Settled states (R309 item 3) -/

/-- An address below 4096 is the widening of its low twelve bits. -/
theorem zextAddr_setWidth {a : Word} (h : a.toNat < 4096) : zextAddr (a.setWidth 12) = a := by
  apply BitVec.eq_of_toNat_eq
  rw [zextAddr_toNat, BitVec.toNat_setWidth, Nat.mod_eq_of_lt h]

/-- The two bytes of R309 item 3 for the address `nnn` are the word of `JP nnn`. -/
theorem wordOfBytes_selfJump (nnn : Addr12) :
    wordOfBytes (0x10#8 ||| (zextAddr nnn >>> 8).setWidth 8) ((zextAddr nnn).setWidth 8) = nnnWord 0x1#4 nnn := by
  apply BitVec.eq_of_getLsbD_eq
  intro i hi
  rw [wordOfBytes_bit, nnnWord_bit, show 0x10#8 = BitVec.twoPow 8 4 from rfl, show 0x1#4 = BitVec.twoPow 4 0 from rfl]
  simp only [zextAddr, BitVec.getLsbD_or, BitVec.getLsbD_twoPow, BitVec.getLsbD_setWidth, BitVec.getLsbD_ushiftRight]
  -- The low byte, the high bits of `nnn`, and the operation nibble, where `nnn` has no bits.
  obtain hlo | ⟨h8, h12⟩ | h12 : i < 8 ∨ (8 ≤ i ∧ i < 12) ∨ 12 ≤ i := by omega
  · have h12 : i < 12 := by omega
    simp [hlo, h12, hi]
  · have h4 : 4 ≠ i - 8 := by omega
    have hi8 : i - 8 < 8 := by omega
    simp [hi, h8.not_gt, h12, h4, hi8, Nat.add_sub_cancel' h8]
  · have hop : 4 = i - 8 ↔ 0 = i - 12 := by omega
    have h8 : ¬ i < 8 := by omega
    have hzero : nnn.getLsbD i = false := BitVec.getLsbD_of_ge nnn i h12
    simp [h12.not_gt, h8, hop, hzero, Nat.add_sub_cancel' (show 8 ≤ i by omega)]

/-- The instruction at `pc` of a settled state is the jump to `pc`. -/
theorem State.Settled.fetchInstr (h : s.Settled) : s.fetchInstr = .ok (.jp (s.pc.setWidth 12)) := by
  obtain ⟨hpc, hhi, hlo, -⟩ := h
  have hself := wordOfBytes_selfJump (s.pc.setWidth 12)
  rw [zextAddr_setWidth (by omega)] at hself
  exact (s.fetchInstr_eq_ok_iff _).2 ⟨hpc, by rw [hhi, hlo, hself, decodeWord_family1]⟩

theorem State.Settled.clearDirty (h : s.Settled) : s.clearDirty.Settled := h

theorem step_of_settled (h : s.Settled) : step s = .next s.clearDirty := by
  have hpc : s.pc.toNat ≤ 4094 := ((s.fetchInstr_eq_ok_iff _).1 h.fetchInstr).1
  calc step s = .next (s.clearDirty.jump (zextAddr (s.pc.setWidth 12))) := step_eq_exec h.fetchInstr
    _ = .next (s.clearDirty.jump s.pc) := by rw [zextAddr_setWidth (by omega)]
    _ = .next s.clearDirty := rfl

/-- Settles O56: the jump goes to where `pc` is, and DIRTY is not looked at. -/
theorem settledMachineStaysSettled : Obligations.SettledMachineStaysSettled :=
  fun _ h => ⟨step_of_settled h, h.clearDirty⟩

end Sys2Proof.Machine
end
